-- ==== Sys2Proof/Word.lean ====
section
/-! DEFINITION. The word types of the spec (R9): unsigned 8- and 16-bit values and the 4-bit register number. -/

namespace Sys2Proof

/-- `u8` of R9: a register, a timer, a byte of memory, an immediate. -/
abbrev Byte := BitVec 8

/-- `u16` of R9: PC, I, a stack entry, an instruction word. -/
abbrev Word := BitVec 16

/-- A register index 0..15 (R57, R66). -/
abbrev Reg := BitVec 4

end Sys2Proof
end

