-- ==== Sys2Proof/Syntax.lean ====
section
/-! DEFINITION. The 35 instructions (R66, C1), one constructor per row of spec/opcode_table.json, in its order, each
carrying only the operand fields R66 gives it. -/

namespace Sys2Proof

/-- The decoded instruction (R66). Register operands are indices 0..15, addresses are `u16`, immediates `u8`, the
sprite height 0..15. -/
inductive Instr where
  /-- Row 1, R94: the legacy call, a no-op. -/
  | call (addr : Word)
  /-- Row 2, R95. -/
  | clearScreen
  /-- Row 3, R96: Return. -/
  | ret
  /-- Row 4, R97. -/
  | jump (addr : Word)
  /-- Row 5, R98. -/
  | callSub (addr : Word)
  /-- Row 6, R99. -/
  | jumpIndexed (addr : Word)
  /-- Row 7, R100. -/
  | skipIfEqual (x : Reg) (imm : Byte)
  /-- Row 8, R101. -/
  | skipIfNotEqual (x : Reg) (imm : Byte)
  /-- Row 9, R102. -/
  | skipIfRegistersEqual (x y : Reg)
  /-- Row 10, R103. -/
  | skipIfRegistersNotEqual (x y : Reg)
  /-- Row 11, R104. -/
  | skipIfKeyDown (x : Reg)
  /-- Row 12, R105. -/
  | skipIfKeyUp (x : Reg)
  /-- Row 13, R106. -/
  | loadImmediate (x : Reg) (imm : Byte)
  /-- Row 14, R107. -/
  | addImmediateNoFlag (x : Reg) (imm : Byte)
  /-- Row 15, R108. -/
  | copy (dst src : Reg)
  /-- Row 16, R109. -/
  | bitwiseOr (dst src : Reg)
  /-- Row 17, R110. -/
  | bitwiseAnd (dst src : Reg)
  /-- Row 18, R111. -/
  | bitwiseXor (dst src : Reg)
  /-- Row 19, R112. -/
  | addWithCarry (dst src : Reg)
  /-- Row 20, R113. -/
  | subtractForward (dst src : Reg)
  /-- Row 21, R114. -/
  | subtractReverse (dst src : Reg)
  /-- Row 22, R115. -/
  | shiftRight (x : Reg)
  /-- Row 23, R116. -/
  | shiftLeft (x : Reg)
  /-- Row 24, R118. -/
  | setIndex (addr : Word)
  /-- Row 25, R119. -/
  | addRegisterToIndex (x : Reg)
  /-- Row 26, R120. -/
  | setIndexToGlyph (x : Reg)
  /-- Row 27, R121. -/
  | storeBcd (x : Reg)
  /-- Row 28, R122. -/
  | dumpRegisters (x : Reg)
  /-- Row 29, R123. -/
  | loadRegisters (x : Reg)
  /-- Row 30, R124. -/
  | readDelayTimer (x : Reg)
  /-- Row 31, R125. -/
  | setDelayTimer (x : Reg)
  /-- Row 32, R126. -/
  | setSoundTimer (x : Reg)
  /-- Row 33, R127. -/
  | waitForKey (x : Reg)
  /-- Row 34, R128. -/
  | drawSprite (x y : Reg) (height : BitVec 4)
  /-- Row 35, R129. -/
  | randomMask (x : Reg) (mask : Byte)
  deriving DecidableEq, Repr

end Sys2Proof
end

