-- ==== Sys2Proof/WellFormed.lean ====
section
/-! DEFINITION. Which terms of `Instr` stand for an encodable instruction: the checks the operand types do not
already make. -/

namespace Sys2Proof

/-- An address operand is zext_16(nnn), so it is at most 0xFFF (R57). -/
def addrOk (addr : Word) : Bool := addr.toNat ≤ 0xFFF

/-- The low byte of a Call word is neither 0xE0 nor 0xEE: those words are ClearScreen and Return (R59). -/
def callLowByteOk (addr : Word) : Bool :=
  addr.toNat % 256 ≠ 0xE0 && addr.toNat % 256 ≠ 0xEE

/-- The instruction has an encoding (R57, R59). Register, immediate and height operands are always in range. -/
def Instr.wf : Instr → Bool
  | .call addr => addrOk addr && callLowByteOk addr
  | .jump addr => addrOk addr
  | .callSub addr => addrOk addr
  | .jumpIndexed addr => addrOk addr
  | .setIndex addr => addrOk addr
  | .clearScreen => true
  | .ret => true
  | .skipIfEqual _ _ => true
  | .skipIfNotEqual _ _ => true
  | .skipIfRegistersEqual _ _ => true
  | .skipIfRegistersNotEqual _ _ => true
  | .skipIfKeyDown _ => true
  | .skipIfKeyUp _ => true
  | .loadImmediate _ _ => true
  | .addImmediateNoFlag _ _ => true
  | .copy _ _ => true
  | .bitwiseOr _ _ => true
  | .bitwiseAnd _ _ => true
  | .bitwiseXor _ _ => true
  | .addWithCarry _ _ => true
  | .subtractForward _ _ => true
  | .subtractReverse _ _ => true
  | .shiftRight _ => true
  | .shiftLeft _ => true
  | .addRegisterToIndex _ => true
  | .setIndexToGlyph _ => true
  | .storeBcd _ => true
  | .dumpRegisters _ => true
  | .loadRegisters _ => true
  | .readDelayTimer _ => true
  | .setDelayTimer _ => true
  | .setSoundTimer _ => true
  | .waitForKey _ => true
  | .drawSprite _ _ _ => true
  | .randomMask _ _ => true

end Sys2Proof
end

