-- ==== Sys2Proof/Decode.lean ====
section
/-! DEFINITION. The decoder (R54-R70), total on every word, and after it the encoder written from the same opcode
map (R67). The decoder reads no state (R65, R70). -/

namespace Sys2Proof

/-- Why a word has no instruction (R64): the only reason there is. Raised by `decode`; it ends no run, the cycle
driver reports it and goes on (R75). -/
inductive DecodeError where
  | unknownOpcode (word : Word)
  deriving DecidableEq, Repr

/-! ### The fields of a word (R55) -/

/-- `op`, bits 15-12. -/
def opField (w : Word) : BitVec 4 := w.extractLsb' 12 4

/-- `x`, bits 11-8. -/
def xField (w : Word) : Reg := w.extractLsb' 8 4

/-- `y`, bits 7-4. -/
def yField (w : Word) : Reg := w.extractLsb' 4 4

/-- `n`, bits 3-0. -/
def nField (w : Word) : BitVec 4 := w.extractLsb' 0 4

/-- `nn`, bits 7-0. -/
def nnField (w : Word) : Byte := w.extractLsb' 0 8

/-- `addr = zext_16(nnn)`, `nnn` being bits 11-0 (R57). -/
def addrField (w : Word) : Word := (w.extractLsb' 0 12).setWidth 16

/-! ### The decoder -/

/-- Top nibble 0: the low byte alone decides, bits 11-8 play no part for ClearScreen and Return (R59, D8). -/
def decode0 (w : Word) : Instr :=
  if nnField w = 0xE0#8 then .clearScreen
  else if nnField w = 0xEE#8 then .ret
  else .call (addrField w)

/-- Top nibble 8: the low nibble decides; the shifts ignore y (R61). -/
def decode8 (w : Word) : Except DecodeError Instr :=
  let x := xField w
  let y := yField w
  match nField w with
  | 0x0#4 => .ok (.copy x y)
  | 0x1#4 => .ok (.bitwiseOr x y)
  | 0x2#4 => .ok (.bitwiseAnd x y)
  | 0x3#4 => .ok (.bitwiseXor x y)
  | 0x4#4 => .ok (.addWithCarry x y)
  | 0x5#4 => .ok (.subtractForward x y)
  | 0x6#4 => .ok (.shiftRight x)
  | 0x7#4 => .ok (.subtractReverse x y)
  | 0xE#4 => .ok (.shiftLeft x)
  | _ => .error (.unknownOpcode w)

/-- Top nibble E: the low byte decides (R62). -/
def decodeE (w : Word) : Except DecodeError Instr :=
  match nnField w with
  | 0x9E#8 => .ok (.skipIfKeyDown (xField w))
  | 0xA1#8 => .ok (.skipIfKeyUp (xField w))
  | _ => .error (.unknownOpcode w)

/-- Top nibble F: the low byte decides (R63). -/
def decodeF (w : Word) : Except DecodeError Instr :=
  match nnField w with
  | 0x07#8 => .ok (.readDelayTimer (xField w))
  | 0x0A#8 => .ok (.waitForKey (xField w))
  | 0x15#8 => .ok (.setDelayTimer (xField w))
  | 0x18#8 => .ok (.setSoundTimer (xField w))
  | 0x1E#8 => .ok (.addRegisterToIndex (xField w))
  | 0x29#8 => .ok (.setIndexToGlyph (xField w))
  | 0x33#8 => .ok (.storeBcd (xField w))
  | 0x55#8 => .ok (.dumpRegisters (xField w))
  | 0x65#8 => .ok (.loadRegisters (xField w))
  | _ => .error (.unknownOpcode w)

/-- The decoder (R58-R63): the top nibble first, then the secondary dispatch of the families 0, 8, E and F. The
patterns of 31 rows are the spec's decision D21 (log entry 14). The last arm is top nibble 0xF. -/
def decode (w : Word) : Except DecodeError Instr :=
  match opField w with
  | 0x0#4 => .ok (decode0 w)
  | 0x1#4 => .ok (.jump (addrField w))
  | 0x2#4 => .ok (.callSub (addrField w))
  | 0x3#4 => .ok (.skipIfEqual (xField w) (nnField w))
  | 0x4#4 => .ok (.skipIfNotEqual (xField w) (nnField w))
  | 0x5#4 => .ok (.skipIfRegistersEqual (xField w) (yField w))
  | 0x6#4 => .ok (.loadImmediate (xField w) (nnField w))
  | 0x7#4 => .ok (.addImmediateNoFlag (xField w) (nnField w))
  | 0x8#4 => decode8 w
  | 0x9#4 => .ok (.skipIfRegistersNotEqual (xField w) (yField w))
  | 0xA#4 => .ok (.setIndex (addrField w))
  | 0xB#4 => .ok (.jumpIndexed (addrField w))
  | 0xC#4 => .ok (.randomMask (xField w) (nnField w))
  | 0xD#4 => .ok (.drawSprite (xField w) (yField w) (nField w))
  | 0xE#4 => decodeE w
  | _ => decodeF w

/-- The instruction word from the two bytes of a fetch, big-endian: the byte at PC is bits 15-8 (R40). -/
def wordOfBytes (hi lo : Byte) : Word := hi ++ lo

/-- The byte stored at the lower address (R40). -/
def highByte (w : Word) : Byte := w.extractLsb' 8 8

/-- The byte stored at the higher address (R40). -/
def lowByte (w : Word) : Byte := w.extractLsb' 0 8

/-- Decoding from the bytes in memory order (R40, R54). -/
def decodeBytes (hi lo : Byte) : Except DecodeError Instr := decode (wordOfBytes hi lo)

/-- The word that a row of spec/opcode_table.json with `nbits` bits names by the number `w`; every bit of the
instruction above `nbits` is 0. -/
def tableWord (nbits w : Nat) : Word := BitVec.ofNat 16 (w % 2 ^ nbits)

/-- The instruction the decoder reads from that word, laid out in bytes as the hardware stores it. -/
def decodeTableWord (nbits w : Nat) : Option Instr :=
  (decodeBytes (highByte (tableWord nbits w)) (lowByte (tableWord nbits w))).toOption

/-! ### The encoder (R56, R67); ignored bits are encoded as 0, as R71's words have them -/

/-- Format A and Z: the op nibble and the low 12 bits of the address. -/
def encodeAddr (op : BitVec 4) (addr : Word) : Word := op ++ addr.extractLsb' 0 12

/-- Format XI: the op nibble, x and nn. -/
def encodeXI (op : BitVec 4) (x : Reg) (nn : Byte) : Word := op ++ (x ++ nn)

/-- Formats XY and XYN: the op nibble, x, y and a low nibble. -/
def encodeXY (op : BitVec 4) (x y : Reg) (n : BitVec 4) : Word := op ++ (x ++ (y ++ n))

/-- The word of an instruction (R67). -/
def encode : Instr → Word
  | .call addr => encodeAddr 0x0#4 addr
  | .clearScreen => 0x00E0#16
  | .ret => 0x00EE#16
  | .jump addr => encodeAddr 0x1#4 addr
  | .callSub addr => encodeAddr 0x2#4 addr
  | .jumpIndexed addr => encodeAddr 0xB#4 addr
  | .skipIfEqual x imm => encodeXI 0x3#4 x imm
  | .skipIfNotEqual x imm => encodeXI 0x4#4 x imm
  | .skipIfRegistersEqual x y => encodeXY 0x5#4 x y 0x0#4
  | .skipIfRegistersNotEqual x y => encodeXY 0x9#4 x y 0x0#4
  | .skipIfKeyDown x => encodeXI 0xE#4 x 0x9E#8
  | .skipIfKeyUp x => encodeXI 0xE#4 x 0xA1#8
  | .loadImmediate x imm => encodeXI 0x6#4 x imm
  | .addImmediateNoFlag x imm => encodeXI 0x7#4 x imm
  | .copy dst src => encodeXY 0x8#4 dst src 0x0#4
  | .bitwiseOr dst src => encodeXY 0x8#4 dst src 0x1#4
  | .bitwiseAnd dst src => encodeXY 0x8#4 dst src 0x2#4
  | .bitwiseXor dst src => encodeXY 0x8#4 dst src 0x3#4
  | .addWithCarry dst src => encodeXY 0x8#4 dst src 0x4#4
  | .subtractForward dst src => encodeXY 0x8#4 dst src 0x5#4
  | .subtractReverse dst src => encodeXY 0x8#4 dst src 0x7#4
  | .shiftRight x => encodeXY 0x8#4 x 0x0#4 0x6#4
  | .shiftLeft x => encodeXY 0x8#4 x 0x0#4 0xE#4
  | .setIndex addr => encodeAddr 0xA#4 addr
  | .addRegisterToIndex x => encodeXI 0xF#4 x 0x1E#8
  | .setIndexToGlyph x => encodeXI 0xF#4 x 0x29#8
  | .storeBcd x => encodeXI 0xF#4 x 0x33#8
  | .dumpRegisters x => encodeXI 0xF#4 x 0x55#8
  | .loadRegisters x => encodeXI 0xF#4 x 0x65#8
  | .readDelayTimer x => encodeXI 0xF#4 x 0x07#8
  | .setDelayTimer x => encodeXI 0xF#4 x 0x15#8
  | .setSoundTimer x => encodeXI 0xF#4 x 0x18#8
  | .waitForKey x => encodeXI 0xF#4 x 0x0A#8
  | .drawSprite x y height => encodeXY 0xD#4 x y height
  | .randomMask x mask => encodeXI 0xC#4 x mask

/-- The bits of an instruction's word that the decoder looks at: all but those R56 and R67 mark `-`. -/
def readMask : Instr → Word
  | .clearScreen => 0xF0FF#16
  | .ret => 0xF0FF#16
  | .skipIfRegistersEqual _ _ => 0xFFF0#16
  | .skipIfRegistersNotEqual _ _ => 0xFFF0#16
  | .shiftRight _ => 0xFF0F#16
  | .shiftLeft _ => 0xFF0F#16
  | .call _ => 0xFFFF#16
  | .jump _ => 0xFFFF#16
  | .callSub _ => 0xFFFF#16
  | .jumpIndexed _ => 0xFFFF#16
  | .skipIfEqual _ _ => 0xFFFF#16
  | .skipIfNotEqual _ _ => 0xFFFF#16
  | .skipIfKeyDown _ => 0xFFFF#16
  | .skipIfKeyUp _ => 0xFFFF#16
  | .loadImmediate _ _ => 0xFFFF#16
  | .addImmediateNoFlag _ _ => 0xFFFF#16
  | .copy _ _ => 0xFFFF#16
  | .bitwiseOr _ _ => 0xFFFF#16
  | .bitwiseAnd _ _ => 0xFFFF#16
  | .bitwiseXor _ _ => 0xFFFF#16
  | .addWithCarry _ _ => 0xFFFF#16
  | .subtractForward _ _ => 0xFFFF#16
  | .subtractReverse _ _ => 0xFFFF#16
  | .setIndex _ => 0xFFFF#16
  | .addRegisterToIndex _ => 0xFFFF#16
  | .setIndexToGlyph _ => 0xFFFF#16
  | .storeBcd _ => 0xFFFF#16
  | .dumpRegisters _ => 0xFFFF#16
  | .loadRegisters _ => 0xFFFF#16
  | .readDelayTimer _ => 0xFFFF#16
  | .setDelayTimer _ => 0xFFFF#16
  | .setSoundTimer _ => 0xFFFF#16
  | .waitForKey _ => 0xFFFF#16
  | .drawSprite _ _ _ => 0xFFFF#16
  | .randomMask _ _ => 0xFFFF#16

/-- A row of the opcode table: the bits it fixes, and their values. -/
structure OpcodeRow where
  mask : Word
  bits : Word
  deriving DecidableEq, Repr

/-- The row of spec/opcode_table.json an instruction belongs to (R67). The row of Call matches ClearScreen and Return
too; those two come first (R59). -/
def opcodeRow : Instr → OpcodeRow
  | .call _ => { mask := 0xF000#16, bits := 0x0000#16 }
  | .clearScreen => { mask := 0xF0FF#16, bits := 0x00E0#16 }
  | .ret => { mask := 0xF0FF#16, bits := 0x00EE#16 }
  | .jump _ => { mask := 0xF000#16, bits := 0x1000#16 }
  | .callSub _ => { mask := 0xF000#16, bits := 0x2000#16 }
  | .jumpIndexed _ => { mask := 0xF000#16, bits := 0xB000#16 }
  | .skipIfEqual _ _ => { mask := 0xF000#16, bits := 0x3000#16 }
  | .skipIfNotEqual _ _ => { mask := 0xF000#16, bits := 0x4000#16 }
  | .skipIfRegistersEqual _ _ => { mask := 0xF000#16, bits := 0x5000#16 }
  | .skipIfRegistersNotEqual _ _ => { mask := 0xF000#16, bits := 0x9000#16 }
  | .skipIfKeyDown _ => { mask := 0xF0FF#16, bits := 0xE09E#16 }
  | .skipIfKeyUp _ => { mask := 0xF0FF#16, bits := 0xE0A1#16 }
  | .loadImmediate _ _ => { mask := 0xF000#16, bits := 0x6000#16 }
  | .addImmediateNoFlag _ _ => { mask := 0xF000#16, bits := 0x7000#16 }
  | .copy _ _ => { mask := 0xF00F#16, bits := 0x8000#16 }
  | .bitwiseOr _ _ => { mask := 0xF00F#16, bits := 0x8001#16 }
  | .bitwiseAnd _ _ => { mask := 0xF00F#16, bits := 0x8002#16 }
  | .bitwiseXor _ _ => { mask := 0xF00F#16, bits := 0x8003#16 }
  | .addWithCarry _ _ => { mask := 0xF00F#16, bits := 0x8004#16 }
  | .subtractForward _ _ => { mask := 0xF00F#16, bits := 0x8005#16 }
  | .subtractReverse _ _ => { mask := 0xF00F#16, bits := 0x8007#16 }
  | .shiftRight _ => { mask := 0xF00F#16, bits := 0x8006#16 }
  | .shiftLeft _ => { mask := 0xF00F#16, bits := 0x800E#16 }
  | .setIndex _ => { mask := 0xF000#16, bits := 0xA000#16 }
  | .addRegisterToIndex _ => { mask := 0xF0FF#16, bits := 0xF01E#16 }
  | .setIndexToGlyph _ => { mask := 0xF0FF#16, bits := 0xF029#16 }
  | .storeBcd _ => { mask := 0xF0FF#16, bits := 0xF033#16 }
  | .dumpRegisters _ => { mask := 0xF0FF#16, bits := 0xF055#16 }
  | .loadRegisters _ => { mask := 0xF0FF#16, bits := 0xF065#16 }
  | .readDelayTimer _ => { mask := 0xF0FF#16, bits := 0xF007#16 }
  | .setDelayTimer _ => { mask := 0xF0FF#16, bits := 0xF015#16 }
  | .setSoundTimer _ => { mask := 0xF0FF#16, bits := 0xF018#16 }
  | .waitForKey _ => { mask := 0xF0FF#16, bits := 0xF00A#16 }
  | .drawSprite _ _ _ => { mask := 0xF000#16, bits := 0xD000#16 }
  | .randomMask _ _ => { mask := 0xF000#16, bits := 0xC000#16 }

end Sys2Proof
end

