-- ==== Sys2Proof/Config.lean ====
section
/-! DEFINITION. What is fixed for the machine (the parameters of R7) and what the spec leaves open (R8): the values
without a body are free, so nothing can be proved of them beyond their types. -/

namespace Sys2Proof.Config

/-- ADDR_TOP (R7): the highest address of memory. -/
def memTop : Nat := 0xFFF

/-- PROG_START (R7): the reset PC, the ROM load address and the target of the PC wrap. -/
def progStart : Word := 0x200#16

/-- The longest ROM (R92, R151): 0xFFF - 0x200 + 1 bytes. -/
def romMax : Nat := 0xE00

/-- GLYPH_SIZE (R7): 16 glyphs of 5 bytes. -/
def glyphSize : Nat := 80

/-- The 80 bytes of the glyph table, as R149 lays them out: 16 glyphs, 5 rows each, top row first. -/
abbrev GlyphTable := Vector (Vector Byte 5) 16

/-- GLYPH_BASE (R8, R149, D19): OPEN. Its type says the one thing the spec says of it,
GLYPH_BASE + 80 ≤ 0x200. Free value, log entry 7. -/
opaque glyphBase : Fin 433

/-- GLYPH_TABLE (R8, R150, D19) is a parameter with a default: a table supplied in its place, or none.
Free value, log entry 8. -/
opaque suppliedGlyphTable : Option GlyphTable

/-- The random byte of a cycle for which the host's moves name none (R8, R88, D20): a draw with no law,
one for each value of the counter `draws` of State. Free value, log entry 3. -/
opaque freeRandomByte : Nat → Byte

end Sys2Proof.Config
end

