-- ==== Sys2Proof/Machine/State.lean ====
section
/-! DEFINITION. Everything the spec gives the machine (10_state.md, 20_memory.md), the ports it reads and drives
(R91) held as data, the reasons a step could stop, and the state after reset (R36, R147). -/

namespace Sys2Proof.Machine

/-- The outcome type's fault. It has no constructor: the spec gives every cycle an effect (R72: "A cycle always
completes"), and its own faults are the Halted state (R78, R137), which is a next state here. Raised by nothing
(safe: there is no stop to hide a behaviour behind). Log entry 6. -/
inductive Fault where
  deriving DecidableEq, Repr

/-- The outcome type's refusal. -/
inductive Refusal where
  /-- The instruction has no meaning yet. Raised by no arm of `exec`: all 35 instructions have one. Safe. -/
  | notModelled (mnemonic : String)
  deriving DecidableEq, Repr

/-- FAULT (R31, R133, R134): the first fault raised since reset. -/
inductive FaultRecord where
  /-- Code 0, info 0: no fault. -/
  | noFault
  /-- Code 1: an access above 0xFFF; the info is the lowest such address (R42). -/
  | memoryBounds (addr : Word)
  /-- Code 2: a key skip whose register holds more than 0x0F; the info is that value, zero-extended (R104). -/
  | keyIndex (info : Word)
  deriving DecidableEq, Repr

/-- What a cycle reports on the diagnostic outputs (R89, R132). -/
inductive Report where
  /-- Code 1: the fetched word decodes to no instruction (R75). -/
  | unknownOpcode (word : Word)
  /-- Code 2: a CallSub at this PC with SP = 16 (R98). -/
  | stackOverflow (pc : Word)
  /-- Code 3: a Return at this PC with SP = 0 (R96). -/
  | stackUnderflow (pc : Word)
  deriving DecidableEq, Repr

/-- The inputs of one cycle (R91), and the value the host gives KEYS before it, if it changes it (R87). -/
structure CyclePorts where
  /-- A write of KEYS between the cycle before and this one. -/
  keys : Option (BitVec 16)
  /-- `key_event_valid` and `key_event_code` (R83). -/
  keyEvent : Option (BitVec 4)
  /-- `rnd` (R88). -/
  rnd : Byte
  /-- `redraw_ack` (R82). -/
  redrawAck : Bool
  deriving DecidableEq, Repr

/-- The bytes of a ROM load. R92 gives the host no load of more than 0xE00 bytes, so there is none here; the bytes'
addresses are not the host's to choose, byte i goes to 0x200 + i (R151). -/
abbrev Rom := { bytes : List Byte // bytes.length ≤ Config.romMax }

/-- One thing the host does next: a move of R92, and no other. -/
inductive HostMove where
  /-- Assert `rst`, then load this ROM, which may be empty, before the first cycle (R90, R147, R151). -/
  | reset (rom : Rom)
  /-- Assert `step` once with these inputs (R72, R91). -/
  | cycle (ports : CyclePorts)
  deriving DecidableEq, Repr

/-- The cycle driver's state, derived from HALT and AWAIT (R28). -/
inductive DriverState where
  | running
  | awaitingKey (target : Reg)
  | halted
  deriving DecidableEq, Repr

/-- The memory (R37) as its bytes that differ from the reset contents: (address, byte) pairs, addresses strictly
rising. What an unlisted address reads as is `unlistedByte`, and the canonical form is `Memory.wf`, both in
Machine/Memory.lean. -/
abbrev Memory := List Host.Cell

/-- FB (R29): row y holds the 64 cells (0, y)..(63, y), bit x being cell (x, y). -/
abbrev Framebuffer := Vector (BitVec 64) 32

/-- The state of the block (10_state.md), then the ports held as data. -/
structure State where
  /-- V0..VF (R16). VF is `v[15]`, register and flag in one cell (R17). -/
  v : Vector Byte 16
  /-- I (R21). -/
  index : Word
  /-- PC (R19). -/
  pc : Word
  /-- STACK[0..15] (R22). -/
  stack : Vector Word 16
  /-- SP (R23): the next free slot, 0 empty, 16 full. -/
  sp : Fin 17
  /-- DT (R24). -/
  dt : Byte
  /-- ST (R25). -/
  st : Byte
  /-- KEYS (R26): bit k is key k, 1 when it is down. -/
  keys : BitVec 16
  /-- AWAIT (R27). -/
  awaitKey : Option Reg
  /-- FB (R29). -/
  fb : Framebuffer
  /-- REDRAW (R30). -/
  redraw : Bool
  /-- HALT (R31). -/
  halt : Bool
  /-- FAULT (R31). -/
  fault : FaultRecord
  /-- MEM (R37). -/
  mem : Memory
  /-- The diagnostic outputs of the latest cycle (R89): none when `diag_valid` is 0. Log entry 5. -/
  diag : Option Report
  /-- The model's own: the `rnd` input of the current cycle (R88), latched when it starts. Log entry 4. -/
  rnd : Byte
  /-- The model's own: what the host will do, oldest first (R92). Log entries 1 and 2. -/
  hostMoves : List HostMove
  /-- The model's own: the counter of the free random bytes drawn (R88, D20). Log entry 3. -/
  draws : Nat
  deriving DecidableEq, Repr

/-- The three outcomes at this machine's types. -/
abbrev Result := Host.Outcome State Fault Refusal

/-- The state right after reset (R36, R147): memory with nothing listed reads as the glyph table in a zeroed memory. -/
def State.reset : State where
  v := Vector.replicate 16 0#8
  index := 0#16
  pc := Config.progStart
  stack := Vector.replicate 16 0#16
  sp := 0
  dt := 0#8
  st := 0#8
  keys := 0#16
  awaitKey := none
  fb := Vector.replicate 32 0#64
  redraw := false
  halt := false
  fault := .noFault
  mem := []
  diag := none
  rnd := 0#8
  hostMoves := []
  draws := 0

end Sys2Proof.Machine
end

