-- ==== Sys2Proof/Machine/Glyphs.lean ====
section
/-! DEFINITION. The glyph table and where it stands (R149, R150). -/

namespace Sys2Proof.Machine

/-- GLYPH_BASE (R8, R149): the address of the glyph table, open. -/
def glyphBase : Nat := Config.glyphBase.val

/-- The default GLYPH_TABLE (R150), digits 0 to 7. -/
def defaultGlyphsLow : Vector (Vector Byte 5) 8 :=
  #v[#v[0xF0, 0x90, 0x90, 0x90, 0xF0], #v[0x20, 0x60, 0x20, 0x20, 0x70],
     #v[0xF0, 0x10, 0xF0, 0x80, 0xF0], #v[0xF0, 0x10, 0xF0, 0x10, 0xF0],
     #v[0x90, 0x90, 0xF0, 0x10, 0x10], #v[0xF0, 0x80, 0xF0, 0x10, 0xF0],
     #v[0xF0, 0x80, 0xF0, 0x90, 0xF0], #v[0xF0, 0x10, 0x20, 0x40, 0x40]]

/-- The default GLYPH_TABLE (R150), digits 8 to F. -/
def defaultGlyphsHigh : Vector (Vector Byte 5) 8 :=
  #v[#v[0xF0, 0x90, 0xF0, 0x90, 0xF0], #v[0xF0, 0x90, 0xF0, 0x10, 0xF0],
     #v[0xF0, 0x90, 0xF0, 0x90, 0x90], #v[0xE0, 0x90, 0xE0, 0x90, 0xE0],
     #v[0xF0, 0x80, 0x80, 0x80, 0xF0], #v[0xE0, 0x90, 0x90, 0x90, 0xE0],
     #v[0xF0, 0x80, 0xF0, 0x80, 0xF0], #v[0xF0, 0x80, 0xF0, 0x80, 0x80]]

/-- The default GLYPH_TABLE (R150), the 16 digits. -/
def defaultGlyphTable : Config.GlyphTable := defaultGlyphsLow ++ defaultGlyphsHigh

/-- GLYPH_TABLE for a supplied table or none: the parameter with the default of R150. -/
def glyphTableOf (supplied : Option Config.GlyphTable) : Config.GlyphTable :=
  supplied.getD defaultGlyphTable

/-- Byte j of a glyph table, 0 ≤ j < 80: row j mod 5 of digit j div 5 (R149); 0 past its end. -/
def glyphTableByte (table : Config.GlyphTable) (j : Nat) : Byte :=
  if h : j / 5 < 16 then table[j / 5][j % 5]'(Nat.mod_lt _ (by decide)) else 0#8

/-- GLYPH_TABLE[j] of this machine (R8). -/
def glyphByte (j : Nat) : Byte := glyphTableByte (glyphTableOf Config.suppliedGlyphTable) j

end Sys2Proof.Machine
end

