-- ==== Sys2Proof/Machine/Memory.lean ====
section
/-! DEFINITION. Reading and writing bytes of memory (R11, R37), and the canonical form of the list that holds it. -/

namespace Sys2Proof.Machine

/-- What an address that nothing has written reads as: its reset contents (R36, R147), the glyph table at GLYPH_BASE
and 0x00 everywhere else. The glyph table lies below 0x200 (R149). Log entry 9. -/
def unlistedByte (a : Nat) : Byte :=
  if a < 0x200 then
    if glyphBase ≤ a ∧ a < glyphBase + Config.glyphSize then glyphByte (a - glyphBase) else 0#8
  else 0#8

/-- MemRead(a, 1) of R11, for a ≤ 0xFFF. -/
def Memory.read : Memory → Nat → Byte
  | [], a => unlistedByte a
  | (k, b) :: rest, a => if k = a then b else Memory.read rest a

/-- One byte in front of the cells that follow it, unless it is what the address reads as anyway. -/
def Memory.consByte (a : Nat) (b : Byte) (rest : Memory) : Memory :=
  if b = unlistedByte a then rest else (a, b) :: rest

/-- Put byte b at address a in a list whose addresses rise, keeping the canonical form. -/
def Memory.insert : Memory → Nat → Byte → Memory
  | [], a, b => Memory.consByte a b []
  | (k, c) :: rest, a, b =>
    if a < k then Memory.consByte a b ((k, c) :: rest)
    else if a = k then Memory.consByte a b rest
    else (k, c) :: Memory.insert rest a b

/-- MemWrite(a, 1, b) of R11. A write above 0xFFF does not take place (R42). -/
def Memory.write (m : Memory) (a : Nat) (b : Byte) : Memory :=
  if a ≤ Config.memTop then Memory.insert m a b else m

/-- The bytes written at a, a+1, … in order, one MemWrite each (R11, R39). -/
def Memory.writeBytes : Memory → Nat → List Byte → Memory
  | m, _, [] => m
  | m, a, b :: bs => Memory.writeBytes (Memory.write m a b) (a + 1) bs

/-- The canonical form: addresses at most 0xFFF and strictly rising, no byte equal to what its address reads as
when unlisted. -/
def Memory.wf : Memory → Bool
  | [] => true
  | (a, b) :: rest =>
    decide (a ≤ Config.memTop) && decide (b ≠ unlistedByte a) && rest.all (fun c => decide (a < c.1)) &&
      Memory.wf rest

end Sys2Proof.Machine
end

