-- ==== Sys2Proof/Machine/Ops.lean ====
section
/-! DEFINITION. The named operations the meanings and the cycle driver are made of: registers, directives and the PC,
timers, reports, entering the Halted state and leaving it, the framebuffer. -/

namespace Sys2Proof.Machine

/-! ### Registers (R16, R17) -/

/-- V[r]. -/
def State.reg (s : State) (r : Reg) : Byte := s.v[r.toNat]'r.isLt

/-- V[r] <- b. -/
def State.setReg (s : State) (r : Reg) (b : Byte) : State := { s with v := s.v.set r.toNat b r.isLt }

/-- VF (R17). -/
def regF : Reg := 0xF#4

/-- VF <- 1 or 0: a flag write is a write of V[15] (R17). -/
def State.setFlag (s : State) (f : Bool) : State := s.setReg regF (if f then 1#8 else 0#8)

/-- A result and then the flag (R112-R116, D5): the flag is written last, so it is what VF holds when r is 15. -/
def State.setRegThenFlag (s : State) (r : Reg) (b : Byte) (f : Bool) : State := (s.setReg r b).setFlag f

/-- Byte a of memory. -/
def State.readByte (s : State) (a : Nat) : Byte := s.mem.read a

/-! ### The program counter (R76, R77) -/

/-- The increment with wrap (R77): past 0xFFF it is exactly 0x200. -/
def adv (p : Word) (k : Nat) : Word :=
  if p.toNat + k > Config.memTop then Config.progStart else BitVec.ofNat 16 (p.toNat + k)

/-- What an executed instruction answers (R76). Holding the PC is JumpTo(PC) (C7). -/
inductive Directive where
  | advance
  | skipNext
  | jumpTo (target : Word)
  deriving DecidableEq, Repr

/-- `apply(d)` of R76: the PC after the instruction's own writes. -/
def State.apply (s : State) (d : Directive) : State :=
  match d with
  | .advance => { s with pc := adv s.pc 2 }
  | .skipNext => { s with pc := adv s.pc 4 }
  | .jumpTo target => { s with pc := target }

/-- `SkipNext if c else Advance` (R100-R105). -/
def skipIf (c : Bool) : Directive := if c then .skipNext else .advance

/-! ### Timers (R80) -/

/-- Down by one, floor at zero. -/
def countDown (t : Byte) : Byte := if t.toNat > 0 then BitVec.ofNat 8 (t.toNat - 1) else t

/-- `tick()` of R80. -/
def State.tick (s : State) : State := { s with dt := countDown s.dt, st := countDown s.st }

/-! ### Reports and faults (R131-R138) -/

/-- `report E(info)` (R11, R89): it drives the diagnostic outputs and changes no architectural state. -/
def State.report (s : State) (r : Report) : State := { s with diag := some r }

/-- `raise F(info)` (R11, R78, R137): the only effects are HALT <- 1 and the record in FAULT; the PC stays on the
faulting instruction. Applied to the state at the start of the fetch or of the instruction, so nothing else lands. -/
def State.raise (s : State) (f : FaultRecord) : State := { s with halt := true, fault := f }

/-- `fault_code` (R133). -/
def FaultRecord.code : FaultRecord → BitVec 4
  | .noFault => 0#4
  | .memoryBounds _ => 1#4
  | .keyIndex _ => 2#4

/-- `fault_info` (R134). -/
def FaultRecord.info : FaultRecord → Word
  | .noFault => 0#16
  | .memoryBounds addr => addr
  | .keyIndex info => info

/-- `diag_code` (R133). -/
def Report.code : Report → BitVec 4
  | .unknownOpcode _ => 1#4
  | .stackOverflow _ => 2#4
  | .stackUnderflow _ => 3#4

/-- `diag_info` (R132). -/
def Report.info : Report → Word
  | .unknownOpcode word => word
  | .stackOverflow pc => pc
  | .stackUnderflow pc => pc

/-- A write through the load port (R151): below 0x200 it is ignored; the 12-bit address reaches no further than
0xFFF. -/
def Memory.loadPort (m : Memory) (addr : BitVec 12) (b : Byte) : Memory :=
  if addr.toNat < Config.progStart.toNat then m else m.write addr.toNat b

/-- The load port's writes in the order the host makes them (R151). -/
def Memory.loadAll : Memory → List (BitVec 12 × Byte) → Memory
  | m, [] => m
  | m, (addr, b) :: rest => Memory.loadAll (Memory.loadPort m addr b) rest

/-- The load port's writes of a ROM load: byte i of the ROM at 0x200 + i (R151). A ROM is at most 0xE00 bytes long
(R92), so the 12 bits hold every address. -/
def romWrites (rom : Rom) : List (BitVec 12 × Byte) :=
  rom.val.mapIdx fun i b => (BitVec.ofNat 12 (Config.progStart.toNat + i), b)

/-- Reset (R147), and the ROM load that follows it (R151, R152): the one way out of Halted (R86, R138). The moves the
host still has before it and the counter of free random bytes are the host's side and stay. -/
def State.assertReset (s : State) (rom : Rom) : State :=
  { State.reset with mem := State.reset.mem.loadAll (romWrites rom), hostMoves := s.hostMoves, draws := s.draws }

/-- The cycle driver's state (R28): Halted overrides AwaitingKey, which overrides Running (R136). -/
def State.driverState (s : State) : DriverState :=
  if s.halt then .halted
  else match s.awaitKey with
    | some r => .awaitingKey r
    | none => .running

/-! ### The framebuffer (R29) -/

/-- FB[x, y]. -/
def Framebuffer.cell (fb : Framebuffer) (x : Fin 64) (y : Fin 32) : Bool := fb[y].getLsbD x.val

/-- FB[x, y] <- FB[x, y] ^ 1. -/
def Framebuffer.flip (fb : Framebuffer) (x : Fin 64) (y : Fin 32) : Framebuffer :=
  fb.set y.val (fb[y] ^^^ (1#64 <<< x.val)) y.isLt

/-- Every cell unlit (R95). -/
def Framebuffer.blank : Framebuffer := Vector.replicate 32 0#64

/-- Bit k of the `fb` output: k = y * 64 + x is FB[x, y] (R29, R91, D17). -/
def Framebuffer.flat (fb : Framebuffer) (k : Fin 2048) : Bool :=
  Framebuffer.cell fb (Fin.ofNat 64 k.val) (Fin.ofNat 32 (k.val / 64))

/-- FB[x, y] of a state. -/
def State.cell (s : State) (x : Fin 64) (y : Fin 32) : Bool := Framebuffer.cell s.fb x y

end Sys2Proof.Machine
end

