-- ==== Sys2Proof/Machine/Operands.lean ====
section
/-! DEFINITION. Every operand form of the instruction set beyond a plain register or immediate: the jump sum, the
glyph address, the key index, the I-based byte ranges and the coordinates and bits of a sprite. -/

namespace Sys2Proof.Machine

/-- JumpIndexed's target (R99, D33): the exact sum, at most 0x10FE for an encodable address, neither wrapped nor
masked (D12). -/
def indexedTarget (addr : Word) (v0 : Byte) : Word := BitVec.ofNat 16 (addr.toNat + v0.toNat)

/-- SetIndexToGlyph's address (R120): the whole register value counts. -/
def glyphAddress (value : Byte) : Word := BitVec.ofNat 16 (glyphBase + 5 * value.toNat)

/-- The key a key skip names (R104, D4): the register's value, which above 0x0F raises KeyIndex. -/
def keyOperand (value : Byte) : Except FaultRecord (BitVec 4) :=
  if value.toNat > 0xF then .error (.keyIndex (value.setWidth 16)) else .ok (value.setWidth 4)

/-- KEYS[k] = 1 (R26). -/
def State.keyDown (s : State) (k : BitVec 4) : Bool := s.keys.getLsbD k.toNat

/-- The range I .. I+m (R42, D30): in range, or MemoryBounds with the lowest address above 0xFFF, which is
`oob(I, m)` of 44_memory_index.md. -/
def rangeFault (base : Word) (m : Nat) : Option FaultRecord :=
  if base.toNat + m > Config.memTop then
    some (.memoryBounds (if base.toNat > Config.memTop then base else 0x1000#16))
  else none

/-- The range a sprite of n rows is read from (R128): none for n = 0. -/
def spriteFault (base : Word) (n : Nat) : Option FaultRecord :=
  if n = 0 then none else rangeFault base (n - 1)

/-- StoreBcd's digits, hundreds first (R121). -/
def bcdDigits (value : Byte) : List Byte :=
  [BitVec.ofNat 8 (value.toNat / 100), BitVec.ofNat 8 (value.toNat / 10 % 10), BitVec.ofNat 8 (value.toNat % 10)]

/-- V0..Vx, x inclusive, in order (R122). -/
def State.regsThrough (s : State) (x : Reg) : List Byte := s.v.toList.take (x.toNat + 1)

/-- V0..Vx replaced by the bytes at a, a+1, …; the registers above x stay (R123). -/
def State.loadRegsThrough (s : State) (x : Reg) (a : Nat) : State :=
  { s with v := Vector.ofFn fun k : Fin 16 => if k.val ≤ x.toNat then s.mem.read (a + k.val) else s.v[k] }

/-- The pixel of column `col` of a sprite byte (R128, D16): bit 7 is the leftmost. -/
def spriteBit (b : Byte) (col : Nat) : Bool := b.getLsbD (7 - col)

/-- `(px + col) mod 64` (R128). -/
def spriteX (px : Byte) (col : Nat) : Fin 64 := Fin.ofNat 64 (px.toNat + col)

/-- `(py + row) mod 32` (R128). -/
def spriteY (py : Byte) (row : Nat) : Fin 32 := Fin.ofNat 32 (py.toNat + row)

end Sys2Proof.Machine
end

