-- ==== Sys2Proof/Machine/Flags.lean ====
section
/-! DEFINITION. The results that come with a flag (R32, R112-R116, R119, R128): computed exactly on numbers, then
narrowed. -/

namespace Sys2Proof.Machine

/-- `s mod 256` of the exact sum (R107, R112). -/
def addByte (a b : Byte) : Byte := BitVec.ofNat 8 (a.toNat + b.toNat)

/-- VF of AddWithCarry (R112): the exact sum exceeds 255. -/
def carryFlag (a b : Byte) : Bool := decide (a.toNat + b.toNat > 255)

/-- `(a - b) mod 256` (R113). -/
def subByte (a b : Byte) : Byte := BitVec.ofNat 8 (256 + a.toNat - b.toNat)

/-- VF of a - b (R113, R114): no borrow, b ≤ a. -/
def noBorrowFlag (a b : Byte) : Bool := decide (b.toNat ≤ a.toNat)

/-- `v >> 1` (R115). -/
def shiftRightByte (b : Byte) : Byte := BitVec.ofNat 8 (b.toNat / 2)

/-- VF of ShiftRight (R115): the old bit 0. -/
def lowBitFlag (b : Byte) : Bool := b.getLsbD 0

/-- `(v << 1) mod 256` (R116). -/
def shiftLeftByte (b : Byte) : Byte := BitVec.ofNat 8 (b.toNat * 2)

/-- VF of ShiftLeft (R116): the old bit 7. -/
def highBitFlag (b : Byte) : Bool := b.getLsbD 7

/-- `s mod 2^16` of the exact sum I + V[x] (R119, C8). -/
def addIndex (i : Word) (b : Byte) : Word := BitVec.ofNat 16 (i.toNat + b.toNat)

/-- VF of AddRegisterToIndex (R119): the exact sum is beyond 0xFFF. -/
def beyondFlag (i : Word) (b : Byte) : Bool := decide (i.toNat + b.toNat > 0xFFF)

/-- One pixel of a draw (R128): a lit cell under a 1 bit is a collision, and a 1 bit flips its cell. -/
def drawPixel (acc : Framebuffer × Bool) (x : Fin 64) (y : Fin 32) (bit : Bool) : Framebuffer × Bool :=
  if bit then (Framebuffer.flip acc.1 x y, acc.2 || Framebuffer.cell acc.1 x y) else acc

/-- One row of a draw: the columns 0..7 of its byte (R128). -/
def drawRow (px py : Byte) (row : Nat) (b : Byte) (acc : Framebuffer × Bool) : Framebuffer × Bool :=
  (List.range 8).foldl (fun acc col => drawPixel acc (spriteX px col) (spriteY py row) (spriteBit b col)) acc

/-- The rows 0..n-1 of a draw, from the framebuffer before it and no collision (R128). -/
def drawRows (px py : Byte) (n : Nat) (byteOf : Nat → Byte) (fb : Framebuffer) : Framebuffer × Bool :=
  (List.range n).foldl (fun acc row => drawRow px py row (byteOf row) acc) (fb, false)

end Sys2Proof.Machine
end

