-- ==== Sys2Proof/Machine/ControlFlow.lean ====
section
/-! DEFINITION. Control flow (41_control_flow.md, R94-R99). -/

namespace Sys2Proof.Machine

/-- R94: the legacy call is a no-op. -/
def execCall (_addr : Word) (s : State) : Result := .next (s.apply .advance)

/-- R95. -/
def execClearScreen (s : State) : Result :=
  .next ({ s with fb := Framebuffer.blank, redraw := true }.apply .advance)

/-- R96: pop and jump, or report StackUnderflow and hold the PC. -/
def execRet (s : State) : Result :=
  if h : 0 < s.sp.val then
    let top : Fin 16 := ⟨s.sp.val - 1, by omega⟩
    .next ({ s with sp := top.castSucc }.apply (.jumpTo s.stack[top]))
  else .next ((s.report (.stackUnderflow s.pc)).apply (.jumpTo s.pc))

/-- R97. -/
def execJump (addr : Word) (s : State) : Result := .next (s.apply (.jumpTo addr))

/-- R98: push the address of the next instruction (D10) and jump, or report StackOverflow and hold the PC. -/
def execCallSub (addr : Word) (s : State) : Result :=
  if h : s.sp.val < 16 then
    .next ({ s with stack := s.stack.set s.sp.val (adv s.pc 2) h, sp := ⟨s.sp.val + 1, by omega⟩ }.apply
      (.jumpTo addr))
  else .next ((s.report (.stackOverflow s.pc)).apply (.jumpTo s.pc))

/-- R99: the register read is V0 (D33). -/
def execJumpIndexed (addr : Word) (s : State) : Result :=
  .next (s.apply (.jumpTo (indexedTarget addr (s.reg 0x0#4))))

end Sys2Proof.Machine
end

