-- ==== Sys2Proof/Machine/MemoryIndex.lean ====
section
/-! DEFINITION. Memory and index operations (44_memory_index.md, R118-R123). -/

namespace Sys2Proof.Machine

/-- A meaning over the bytes I .. I+m: every address is checked before any byte moves (R42, D30), and when one is
above 0xFFF the instruction raises MemoryBounds and does nothing else. -/
def State.guarded (s : State) (f : Option FaultRecord) (effect : State) : Result :=
  match f with
  | some f => .next (s.raise f)
  | none => .next effect

/-- R118. -/
def execSetIndex (addr : Word) (s : State) : Result := .next ({ s with index := addr }.apply .advance)

/-- R119: the flag is about the exact sum, and I takes it truncated to 16 bits. -/
def execAddRegisterToIndex (x : Reg) (s : State) : Result :=
  let b := s.reg x
  .next ({ s.setFlag (beyondFlag s.index b) with index := addIndex s.index b }.apply .advance)

/-- R120. -/
def execSetIndexToGlyph (x : Reg) (s : State) : Result :=
  .next ({ s with index := glyphAddress (s.reg x) }.apply .advance)

/-- R121. -/
def execStoreBcd (x : Reg) (s : State) : Result :=
  s.guarded (rangeFault s.index 2)
    ({ s with mem := s.mem.writeBytes s.index.toNat (bcdDigits (s.reg x)) }.apply .advance)

/-- R122: I is not written. -/
def execDumpRegisters (x : Reg) (s : State) : Result :=
  s.guarded (rangeFault s.index x.toNat)
    ({ s with mem := s.mem.writeBytes s.index.toNat (s.regsThrough x) }.apply .advance)

/-- R123: I is not written. -/
def execLoadRegisters (x : Reg) (s : State) : Result :=
  s.guarded (rangeFault s.index x.toNat) ((s.loadRegsThrough x s.index.toNat).apply .advance)

end Sys2Proof.Machine
end

