-- ==== Sys2Proof/Machine/DisplayRandom.lean ====
section
/-! DEFINITION. Display and random (46_display_random.md, R128-R130). -/

namespace Sys2Proof.Machine

/-- R128: coordinates are read before VF is written (D6); VF is written after FB. -/
def execDrawSprite (x y : Reg) (height : BitVec 4) (s : State) : Result :=
  let drawn := drawRows (s.reg x) (s.reg y) height.toNat (fun row => s.mem.read (s.index.toNat + row)) s.fb
  s.guarded (spriteFault s.index height.toNat)
    (({ s with fb := drawn.1, redraw := true }.setFlag drawn.2).apply .advance)

/-- R129: the byte is this cycle's random input (R88). -/
def execRandomMask (x : Reg) (mask : Byte) (s : State) : Result :=
  .next ((s.setReg x (s.rnd &&& mask)).apply .advance)

end Sys2Proof.Machine
end

