-- ==== Sys2Proof/Machine/RegisterOps.lean ====
section
/-! DEFINITION. Register operations (43_register_ops.md, R106-R117). Operands are read from the state at the start of
the instruction (R12, D6). -/

namespace Sys2Proof.Machine

/-- R106. -/
def execLoadImmediate (x : Reg) (imm : Byte) (s : State) : Result := .next ((s.setReg x imm).apply .advance)

/-- R107: no flag. -/
def execAddImmediateNoFlag (x : Reg) (imm : Byte) (s : State) : Result :=
  .next ((s.setReg x (addByte (s.reg x) imm)).apply .advance)

/-- R108. -/
def execCopy (dst src : Reg) (s : State) : Result := .next ((s.setReg dst (s.reg src)).apply .advance)

/-- R109: VF is not written (D7). -/
def execBitwiseOr (dst src : Reg) (s : State) : Result :=
  .next ((s.setReg dst (s.reg dst ||| s.reg src)).apply .advance)

/-- R110: VF is not written (D7). -/
def execBitwiseAnd (dst src : Reg) (s : State) : Result :=
  .next ((s.setReg dst (s.reg dst &&& s.reg src)).apply .advance)

/-- R111: VF is not written (D7). -/
def execBitwiseXor (dst src : Reg) (s : State) : Result :=
  .next ((s.setReg dst (s.reg dst ^^^ s.reg src)).apply .advance)

/-- R112. -/
def execAddWithCarry (dst src : Reg) (s : State) : Result :=
  let a := s.reg dst
  let b := s.reg src
  .next ((s.setRegThenFlag dst (addByte a b) (carryFlag a b)).apply .advance)

/-- R113: dst - src. -/
def execSubtractForward (dst src : Reg) (s : State) : Result :=
  let a := s.reg dst
  let b := s.reg src
  .next ((s.setRegThenFlag dst (subByte a b) (noBorrowFlag a b)).apply .advance)

/-- R114: src - dst. -/
def execSubtractReverse (dst src : Reg) (s : State) : Result :=
  let a := s.reg dst
  let b := s.reg src
  .next ((s.setRegThenFlag dst (subByte b a) (noBorrowFlag b a)).apply .advance)

/-- R115. -/
def execShiftRight (x : Reg) (s : State) : Result :=
  let b := s.reg x
  .next ((s.setRegThenFlag x (shiftRightByte b) (lowBitFlag b)).apply .advance)

/-- R116. -/
def execShiftLeft (x : Reg) (s : State) : Result :=
  let b := s.reg x
  .next ((s.setRegThenFlag x (shiftLeftByte b) (highBitFlag b)).apply .advance)

end Sys2Proof.Machine
end

