-- ==== Sys2Proof/Machine/Skip.lean ====
section
/-! DEFINITION. Conditional skips (42_conditional_skip.md, R100-R105). -/

namespace Sys2Proof.Machine

/-- R100. -/
def execSkipIfEqual (x : Reg) (imm : Byte) (s : State) : Result :=
  .next (s.apply (skipIf (s.reg x == imm)))

/-- R101. -/
def execSkipIfNotEqual (x : Reg) (imm : Byte) (s : State) : Result :=
  .next (s.apply (skipIf (s.reg x != imm)))

/-- R102. -/
def execSkipIfRegistersEqual (x y : Reg) (s : State) : Result :=
  .next (s.apply (skipIf (s.reg x == s.reg y)))

/-- R103. -/
def execSkipIfRegistersNotEqual (x y : Reg) (s : State) : Result :=
  .next (s.apply (skipIf (s.reg x != s.reg y)))

/-- The key skips (R104, R105): the skip condition is about the key that V[x] names, and a value above 0x0F raises
KeyIndex. -/
def State.keySkip (s : State) (x : Reg) (c : Bool → Bool) : Result :=
  match keyOperand (s.reg x) with
  | .error f => .next (s.raise f)
  | .ok k => .next (s.apply (skipIf (c (s.keyDown k))))

/-- R104. -/
def execSkipIfKeyDown (x : Reg) (s : State) : Result := s.keySkip x fun down => down

/-- R105. -/
def execSkipIfKeyUp (x : Reg) (s : State) : Result := s.keySkip x fun down => !down

end Sys2Proof.Machine
end

