-- ==== Sys2Proof/Machine/TimersInput.lean ====
section
/-! DEFINITION. Timers and input (45_timers_input.md, R124-R127). The cycle's tick comes after the instruction, in
Machine/Cycle.lean (R79). -/

namespace Sys2Proof.Machine

/-- R124. -/
def execReadDelayTimer (x : Reg) (s : State) : Result := .next ((s.setReg x s.dt).apply .advance)

/-- R125. -/
def execSetDelayTimer (x : Reg) (s : State) : Result := .next ({ s with dt := s.reg x }.apply .advance)

/-- R126. -/
def execSetSoundTimer (x : Reg) (s : State) : Result := .next ({ s with st := s.reg x }.apply .advance)

/-- R127: the executing cycle. The wait ends in the cycle driver (R85). -/
def execWaitForKey (x : Reg) (s : State) : Result := .next ({ s with awaitKey := some x }.apply (.jumpTo s.pc))

end Sys2Proof.Machine
end

