-- ==== Sys2Proof/Machine/Dispatch.lean ====
section
/-! DEFINITION. The executor (R3): one arm per instruction. An answer is the state after the instruction's own writes
and its directive (R76); the cycle's tick (R80) is the cycle driver's. -/

namespace Sys2Proof.Machine

def exec (i : Instr) (s : State) : Host.Outcome State Fault Refusal :=
  match i with
  | .call addr => Sys2Proof.Machine.execCall addr s
  | .clearScreen => Sys2Proof.Machine.execClearScreen s
  | .ret => Sys2Proof.Machine.execRet s
  | .jump addr => Sys2Proof.Machine.execJump addr s
  | .callSub addr => Sys2Proof.Machine.execCallSub addr s
  | .jumpIndexed addr => Sys2Proof.Machine.execJumpIndexed addr s
  | .skipIfEqual x imm => Sys2Proof.Machine.execSkipIfEqual x imm s
  | .skipIfNotEqual x imm => Sys2Proof.Machine.execSkipIfNotEqual x imm s
  | .skipIfRegistersEqual x y => Sys2Proof.Machine.execSkipIfRegistersEqual x y s
  | .skipIfRegistersNotEqual x y => Sys2Proof.Machine.execSkipIfRegistersNotEqual x y s
  | .skipIfKeyDown x => Sys2Proof.Machine.execSkipIfKeyDown x s
  | .skipIfKeyUp x => Sys2Proof.Machine.execSkipIfKeyUp x s
  | .loadImmediate x imm => Sys2Proof.Machine.execLoadImmediate x imm s
  | .addImmediateNoFlag x imm => Sys2Proof.Machine.execAddImmediateNoFlag x imm s
  | .copy dst src => Sys2Proof.Machine.execCopy dst src s
  | .bitwiseOr dst src => Sys2Proof.Machine.execBitwiseOr dst src s
  | .bitwiseAnd dst src => Sys2Proof.Machine.execBitwiseAnd dst src s
  | .bitwiseXor dst src => Sys2Proof.Machine.execBitwiseXor dst src s
  | .addWithCarry dst src => Sys2Proof.Machine.execAddWithCarry dst src s
  | .subtractForward dst src => Sys2Proof.Machine.execSubtractForward dst src s
  | .subtractReverse dst src => Sys2Proof.Machine.execSubtractReverse dst src s
  | .shiftRight x => Sys2Proof.Machine.execShiftRight x s
  | .shiftLeft x => Sys2Proof.Machine.execShiftLeft x s
  | .setIndex addr => Sys2Proof.Machine.execSetIndex addr s
  | .addRegisterToIndex x => Sys2Proof.Machine.execAddRegisterToIndex x s
  | .setIndexToGlyph x => Sys2Proof.Machine.execSetIndexToGlyph x s
  | .storeBcd x => Sys2Proof.Machine.execStoreBcd x s
  | .dumpRegisters x => Sys2Proof.Machine.execDumpRegisters x s
  | .loadRegisters x => Sys2Proof.Machine.execLoadRegisters x s
  | .readDelayTimer x => Sys2Proof.Machine.execReadDelayTimer x s
  | .setDelayTimer x => Sys2Proof.Machine.execSetDelayTimer x s
  | .setSoundTimer x => Sys2Proof.Machine.execSetSoundTimer x s
  | .waitForKey x => Sys2Proof.Machine.execWaitForKey x s
  | .drawSprite x y height => Sys2Proof.Machine.execDrawSprite x y height s
  | .randomMask x mask => Sys2Proof.Machine.execRandomMask x mask s

end Sys2Proof.Machine
end

