-- ==== Sys2Proof/Machine/Cycle.lean ====
section
/-! DEFINITION. The cycle driver (40_cycle.md): the host's next move, fetch, decode, execute, tick, the key wait and
the Halted state. -/

namespace Sys2Proof.Machine

/-- The host's next move and the state without it. When no move is left the host runs one cycle in which it presents
no key event and no acknowledgement and leaves KEYS alone, and the random byte is free (log entries 1 to 3). -/
def State.nextMove (s : State) : HostMove × State :=
  match s.hostMoves with
  | [] =>
    (.cycle { keys := none, keyEvent := none, rnd := Config.freeRandomByte s.draws, redrawAck := false },
      { s with draws := s.draws + 1 })
  | m :: rest => (m, { s with hostMoves := rest })

/-- What stands before a cycle starts: KEYS as the host left it (R87), the cycle's random byte (R88), and no report
yet (R89). -/
def State.latchPorts (s : State) (p : CyclePorts) : State :=
  { s with keys := p.keys.getD s.keys, rnd := p.rnd, diag := none }

/-- `if ack: REDRAW <- 0` (R82). -/
def State.acknowledge (s : State) (ack : Bool) : State := if ack then { s with redraw := false } else s

/-- `resolve(k)` of R85. -/
def State.resolve (s : State) (target : Reg) (k : BitVec 4) : State :=
  { (s.setReg target (k.setWidth 8)) with awaitKey := none, pc := adv s.pc 2 }

/-- `fetch(PC)` of R74, big-endian (R40), at any parity (R43). -/
def State.fetch (s : State) : Except FaultRecord Word :=
  match rangeFault s.pc 1 with
  | some f => .error f
  | none => .ok (wordOfBytes (s.mem.read s.pc.toNat) (s.mem.read (s.pc.toNat + 1)))

/-- The end of a Running cycle (R73, R78): tick, unless the instruction raised a fault. -/
def State.endCycle (s : State) : State := if s.halt then s else s.tick

/-- Decode and execute a fetched word (R73, R75). -/
def State.runWord (s : State) (w : Word) : Result :=
  match decode w with
  | .error (.unknownOpcode word) => .next ((s.report (.unknownOpcode word)).apply .advance).tick
  | .ok i =>
    match exec i s with
    | .next t => .next t.endCycle
    | .fault r => .fault r
    | .refused r => .refused r

/-- The Running branch of a cycle (R73). -/
def State.runningCycle (s : State) : Result :=
  match s.fetch with
  | .error f => .next (s.raise f)
  | .ok w => s.runWord w

/-- One cycle (R73) on a state whose ports are latched. -/
def State.cycle (s : State) (p : CyclePorts) : Result :=
  match s.driverState with
  | .halted => .next s
  | .awaitingKey target =>
    let s := s.acknowledge p.redrawAck
    match p.keyEvent with
    | some k => .next (s.resolve target k)
    | none => .next s
  | .running => (s.acknowledge p.redrawAck).runningCycle

/-- One move of the host: a reset with the ROM load after it (R90: no cycle runs while `rst` is asserted), or one
cycle (R72). -/
def State.stepMove (s : State) : Result :=
  match s.nextMove with
  | (.reset rom, s) => .next (s.assertReset rom)
  | (.cycle p, s) => (s.latchPorts p).cycle p

/-- Is the move a reset? -/
def HostMove.isReset : HostMove → Bool
  | .reset _ => true
  | .cycle _ => false

/-- The state with an instruction word stored where the next cycle fetches, and that cycle a Running one: HALT and
AWAIT cleared, resets due before the next cycle dropped, and a PC whose word would lie above 0xFFF moved to 0x200
(log entry 12). -/
def State.placeWord (s : State) (w : Word) : State :=
  let pc := if s.pc.toNat < Config.memTop then s.pc else Config.progStart
  { s with
    pc := pc
    halt := false
    fault := .noFault
    awaitKey := none
    hostMoves := s.hostMoves.dropWhile HostMove.isReset
    mem := s.mem.writeBytes pc.toNat [highByte w, lowByte w] }

end Sys2Proof.Machine
end

