-- ==== Sys2Proof/Machine/Step.lean ====
section
/-! DEFINITION. One step: the host's next move, which is one cycle unless it is a reset. -/

namespace Sys2Proof.Machine

/-- One move of the host (R72, R90). -/
def step (s : State) : Host.Outcome State Fault Refusal := s.stepMove

/-- The instruction of an opcode-table row stored where `step` fetches, so that the next step runs it. -/
def State.withFetchWord (s : State) (nbits w : Nat) : State := s.placeWord (tableWord nbits w)

end Sys2Proof.Machine
end

