-- ==== Sys2Proof/Machine/Ports.lean ====
section
/-! DEFINITION. The outputs the host sees between cycles (R91). -/

namespace Sys2Proof.Machine

/-- The output ports of R91. -/
structure Outputs where
  /-- `fb`: bit y * 64 + x is FB[x, y]. -/
  fb : List Bool
  /-- `needs_redraw`. -/
  needsRedraw : Bool
  /-- `sound_timer`. -/
  soundTimer : Byte
  /-- `awaiting_key`. -/
  awaitingKey : Bool
  /-- `halted`. -/
  halted : Bool
  /-- `fault_code`. -/
  faultCode : BitVec 4
  /-- `fault_info`. -/
  faultInfo : Word
  /-- `diag_valid`. -/
  diagValid : Bool
  /-- `diag_code`. -/
  diagCode : BitVec 4
  /-- `diag_info`; none while `diag_valid` is 0, when no rule says what it carries. -/
  diagInfo : Option Word
  deriving DecidableEq, Repr

/-- The outputs of a state (R89, R91, R133). -/
def State.outputs (s : State) : Outputs where
  fb := (List.finRange 2048).map fun k => Framebuffer.flat s.fb k
  needsRedraw := s.redraw
  soundTimer := s.st
  awaitingKey := s.awaitKey.isSome
  halted := s.halt
  faultCode := s.fault.code
  faultInfo := s.fault.info
  diagValid := s.diag.isSome
  diagCode := (s.diag.map Report.code).getD 0#4
  diagInfo := s.diag.map Report.info

end Sys2Proof.Machine
end

