-- ==== Sys2Proof/Safety.lean ====
section
/-! DEFINITION. The terms the statements use: a Running state, the state an instruction starts from, what a state
change leaves alone, the pixels of a sprite, and the invariant of the machine. -/

namespace Sys2Proof.Machine

/-- Running (R28): not Halted and no key wait. A run is safe, in the sense of R131 and R155, while its states are not
halted. -/
def State.Running (s : State) : Prop := s.halt = false ∧ s.awaitKey = none

/-- The state a Running cycle's fetch and instruction start from (R73, R82, R87-R89): KEYS as the host left it, this
cycle's random byte, no report yet, REDRAW cleared if it is acknowledged. -/
def cycleStart (s : State) (p : CyclePorts) : State :=
  { s with keys := p.keys.getD s.keys, rnd := p.rnd, diag := none, redraw := s.redraw && !p.redrawAck }

/-- The word a fetch at PC reads, as a number (R40): the byte at PC is the high byte. -/
def fetchedWord (s : State) : Word :=
  BitVec.ofNat 16 (256 * (s.readByte s.pc.toNat).toNat + (s.readByte (s.pc.toNat + 1)).toNat)

/-! ### Frames -/

/-- One piece of the state, as small as an instruction can change. -/
inductive Part where
  | reg (r : Reg)
  | index
  | pc
  | stackEntry (k : Fin 16)
  | sp
  | dt
  | st
  | keys
  | awaitKey
  | cell (x : Fin 64) (y : Fin 32)
  | redraw
  | halt
  | fault
  | byte (a : Nat)
  | diag
  | rnd
  | hostMoves
  | draws
  deriving DecidableEq, Repr

/-- The piece is the same in the two states; a byte of memory is compared by reading it. -/
def Part.Same (s t : State) : Part → Prop
  | .reg r => t.reg r = s.reg r
  | .index => t.index = s.index
  | .pc => t.pc = s.pc
  | .stackEntry k => t.stack[k] = s.stack[k]
  | .sp => t.sp = s.sp
  | .dt => t.dt = s.dt
  | .st => t.st = s.st
  | .keys => t.keys = s.keys
  | .awaitKey => t.awaitKey = s.awaitKey
  | .cell x y => t.cell x y = s.cell x y
  | .redraw => t.redraw = s.redraw
  | .halt => t.halt = s.halt
  | .fault => t.fault = s.fault
  | .byte a => t.readByte a = s.readByte a
  | .diag => t.diag = s.diag
  | .rnd => t.rnd = s.rnd
  | .hostMoves => t.hostMoves = s.hostMoves
  | .draws => t.draws = s.draws

/-- Every piece of the state that is not among `written` is the same in t as in s. -/
def Frame (written : Part → Prop) (s t : State) : Prop := ∀ p, ¬ written p → p.Same s t

/-! ### Sprites (R128) -/

/-- A 1 bit of the sprite of n rows that V[x], V[y] and I of s place falls on cell (cx, cy). -/
def State.SpriteLit (s : State) (x y : Reg) (n : Nat) (cx : Fin 64) (cy : Fin 32) : Prop :=
  ∃ row < n, ∃ col < 8,
    cx.val = ((s.reg x).toNat + col) % 64 ∧ cy.val = ((s.reg y).toNat + row) % 32 ∧
      (s.readByte (s.index.toNat + row)).toNat.testBit (7 - col) = true

/-! ### The invariant -/

/-- FAULT's info is one that its fault can have (R134). -/
def FaultRecord.Legal : FaultRecord → Prop
  | .noFault => True
  | .memoryBounds addr => addr.toNat > 0xFFF
  | .keyIndex info => 0xF < info.toNat ∧ info.toNat ≤ 0xFF

/-- What holds of every state of a run. -/
structure State.Inv (s : State) : Prop where
  /-- Memory is in its canonical form, no address above 0xFFF (R37). -/
  mem_wf : s.mem.wf = true
  /-- PC is never above 0x10FE, the highest jump target (R20, R99). -/
  pc_bound : s.pc.toNat ≤ 0x10FE
  /-- Return addresses lie in memory: only values of `adv` are pushed (R20, R98). -/
  stack_bound : ∀ k : Fin 16, s.stack[k].toNat ≤ 0xFFF
  /-- HALT is set exactly when FAULT holds a fault (R31, R133). -/
  halt_iff : s.halt = true ↔ s.fault ≠ .noFault
  /-- The recorded info is one the fault can have (R134). -/
  fault_legal : s.fault.Legal
  /-- A fault is raised only in a Running cycle, so no key wait stands beside it (R136). -/
  halt_no_wait : s.halt = true → s.awaitKey = none
  /-- A cycle has at most one report or one fault, never both (R136). -/
  halt_no_report : s.halt = true → s.diag = none

end Sys2Proof.Machine
end

