-- ==== Sys2Proof/Certificates/Slice0/Obligations.lean ====
section
/-! DEFINITION. The statements for the provers. Each docstring names the rule it formalises; where a clause rests on a
decision of the spec's own (92_eei_decisions.md, marked in the rule) or on the model's (notes/assumptions), it says so. -/

open Sys2Proof Sys2Proof.Machine

/-! ### Encoding -/

/-- Decoding the encoding of a well-formed instruction gives it back, with every operand it carries (R56, R57, R66,
R67; 31 of the patterns are the spec's decision D21, log entry 14). -/
def Obligations.DecodeOfEncodeIsTheInstruction : Prop :=
  ∀ i : Instr, i.wf = true → decode (encode i) = .ok i

/-- The other direction: what the decoder answers is well formed, and its encoding is the word itself but for the bits
R56 marks ignored, which encode as 0 (D8, D9, D21, log entries 14 and 15). -/
def Obligations.EncodeOfDecodeKeepsTheReadBits : Prop :=
  ∀ (w : Word) (i : Instr), decode w = .ok i → i.wf = true ∧ encode i = w &&& readMask i

/-- R64: the words with no instruction are exactly those of the families 8, E and F it lists, and the error carries the
word. The list is the spec's inference from its opcode map (D21, log entry 14). -/
def Obligations.UnknownOpcodeWordsAreExactlyTheListed : Prop :=
  ∀ w : Word,
    (decode w = .error (.unknownOpcode w) ∨ ∃ i, decode w = .ok i) ∧
    (decode w = .error (.unknownOpcode w) ↔
      (w.toNat / 4096 = 0x8 ∧ w.toNat % 16 ∈ [0x8, 0x9, 0xA, 0xB, 0xC, 0xD, 0xF]) ∨
      (w.toNat / 4096 = 0xE ∧ w.toNat % 256 ∉ [0x9E, 0xA1]) ∨
      (w.toNat / 4096 = 0xF ∧
        w.toNat % 256 ∉ [0x07, 0x0A, 0x15, 0x18, 0x1E, 0x29, 0x33, 0x55, 0x65]))

/-- R59: in the 0 family the low byte alone tells ClearScreen and Return from Call, whatever bits 11-8 are (that they
play no part is the spec's decision D8, log entry 15). -/
def Obligations.ZeroFamilyIsDecidedByTheLowByte : Prop :=
  ∀ n : Nat, n < 0x1000 →
    decode (BitVec.ofNat 16 n) = .ok
      (if n % 256 = 0xE0 then .clearScreen else if n % 256 = 0xEE then .ret else .call (BitVec.ofNat 16 n))

/-- Words written out from the spec's encodings decode to the instruction they stand for: §8's 0x6A12 and the decode
spot checks of 95_test_vectors.md, one or more of every family (D8, D9, D21, log entries 14 and 15). -/
def Obligations.WordsOfTheSpecDecode : Prop :=
  decode 0x6A12#16 = .ok (.loadImmediate 0xA#4 0x12#8) ∧
  decode 0x0123#16 = .ok (.call 0x123#16) ∧
  decode 0x05E0#16 = .ok .clearScreen ∧
  decode 0x0AEE#16 = .ok .ret ∧
  decode 0x2210#16 = .ok (.callSub 0x210#16) ∧
  decode 0x5AB7#16 = .ok (.skipIfRegistersEqual 0xA#4 0xB#4) ∧
  decode 0x9AB1#16 = .ok (.skipIfRegistersNotEqual 0xA#4 0xB#4) ∧
  decode 0x8AB6#16 = .ok (.shiftRight 0xA#4) ∧
  decode 0x8017#16 = .ok (.subtractReverse 0x0#4 0x1#4) ∧
  decode 0xF265#16 = .ok (.loadRegisters 0x2#4) ∧
  decode 0xE5A1#16 = .ok (.skipIfKeyUp 0x5#4) ∧
  decode 0xF30A#16 = .ok (.waitForKey 0x3#4) ∧
  decode 0xD120#16 = .ok (.drawSprite 0x1#4 0x2#4 0x0#4) ∧
  decode 0xC30F#16 = .ok (.randomMask 0x3#4 0x0F#8)

/-! ### The cycle -/

/-- A step of a Running machine whose next host move is a cycle fetches the big-endian word at PC (R40) and, if it
decodes to i, is exec of i on the cycle's start state, and then the tick unless the instruction raised a fault (R73,
R78). That the moves are data in the state is the model's choice (log entry 1). -/
def Obligations.StepRunsTheDecodedInstruction : Prop :=
  ∀ (s s0 : State) (p : CyclePorts) (i : Instr),
    s.nextMove = (.cycle p, s0) → s.Running → s.pc.toNat < 0xFFF → decode (fetchedWord s) = .ok i →
    ∃ t, exec i (cycleStart s0 p) = .next t ∧ step s = .next (if t.halt then t else t.tick)

/-- What the host's next move is: the oldest one of the schedule, or, when none is left, a cycle with no key event, no
acknowledgement, KEYS left alone and a free random byte. This is the model's choice (log entries 1 to 3); whatever the
free byte is, the rest holds. -/
def Obligations.NextMoveIsTheOldestOrAQuietCycle : Prop :=
  ∀ s : State,
    (∀ m rest, s.hostMoves = m :: rest → s.nextMove = (m, { s with hostMoves := rest })) ∧
    (s.hostMoves = [] →
      ∃ byte, s.nextMove =
        (.cycle { keys := none, keyEvent := none, rnd := byte, redrawAck := false }, { s with draws := s.draws + 1 }))

/-- R75: a word that decodes to no instruction is reported; the cycle advances PC by 2 and ticks, and changes nothing
else. Nothing else of the cycle's start state, that is: the ports move before it (the host's rewrite of KEYS, R87, log
entry 22, and the latched random byte, log entry 4), and that State holds the report of R89 is the model's choice (log
entry 5). -/
def Obligations.UnknownWordIsReportedAndPassed : Prop :=
  ∀ (s s0 : State) (p : CyclePorts),
    s.nextMove = (.cycle p, s0) → s.Running → s.pc.toNat < 0xFFF →
    decode (fetchedWord s) = .error (.unknownOpcode (fetchedWord s)) →
    ∃ t, step s = .next t ∧ t.diag = some (.unknownOpcode (fetchedWord s)) ∧ t.pc = adv s.pc 2 ∧
      t.dt.toNat = s.dt.toNat - 1 ∧ t.st.toNat = s.st.toNat - 1 ∧
      Frame (fun q => q = .diag ∨ q = .pc ∨ q = .dt ∨ q = .st) (cycleStart s0 p) t

/-- R74: a fetch that would read above 0xFFF halts the machine with the lowest such address; PC stays and nothing else
changes. The fault is the spec's own decision D3 (log entry 21). -/
def Obligations.FetchAboveMemoryHalts : Prop :=
  ∀ (s s0 : State) (p : CyclePorts),
    s.nextMove = (.cycle p, s0) → s.Running → 0xFFF ≤ s.pc.toNat →
    step s = .next { cycleStart s0 p with
      halt := true
      fault := .memoryBounds (if s.pc.toNat = 0xFFF then 0x1000#16 else s.pc) }

/-- R86: a cycle of a halted machine changes nothing: key event, random byte and acknowledgement are ignored. Only the
ports move: the host's write of KEYS between cycles (R87), the latched random byte, the diagnostic outputs at rest
(D32; log entries 5 and 22). -/
def Obligations.HaltedCycleChangesNothing : Prop :=
  ∀ (s s0 : State) (p : CyclePorts),
    s.nextMove = (.cycle p, s0) → s.halt = true →
    step s = .next { s0 with keys := p.keys.getD s.keys, rnd := p.rnd, diag := none }

/-- R81: in AwaitingKey without a key event nothing changes apart from the redraw acknowledgement of R82: no fetch,
no tick, the wait goes on. As in a halted cycle, the ports move too: the host's rewrite of KEYS before the cycle (R87,
log entry 22), the latched random byte (log entry 4), the diagnostic outputs at rest (R89, log entry 5); that the
acknowledgement is an input is the spec's decision D18 (log entry 27). -/
def Obligations.IdleWaitChangesNothing : Prop :=
  ∀ (s s0 : State) (p : CyclePorts) (target : Reg),
    s.nextMove = (.cycle p, s0) → s.halt = false → s.awaitKey = some target → p.keyEvent = none →
    step s = .next (cycleStart s0 p)

/-- R85: a key event in AwaitingKey writes the key code into the captured register, ends the wait and advances PC by
one instruction; the cycle fetches nothing and does not tick (the spec's decision D15, log entry 18). -/
def Obligations.KeyEventEndsTheWait : Prop :=
  ∀ (s s0 : State) (p : CyclePorts) (target : Reg) (k : BitVec 4),
    s.nextMove = (.cycle p, s0) → s.halt = false → s.awaitKey = some target → p.keyEvent = some k →
    ∃ t, step s = .next t ∧ (t.reg target).toNat = k.toNat ∧ t.awaitKey = none ∧ t.pc = adv s.pc 2 ∧
      Frame (fun q => q = .reg target ∨ q = .awaitKey ∨ q = .pc) (cycleStart s0 p) t

/-- R83: a key event in a cycle that starts in Running or Halted is lost, also in the cycle that executes WaitForKey
(the spec's decision D14, log entry 18). -/
def Obligations.KeyEventOutsideAWaitIsLost : Prop :=
  ∀ (s : State) (p : CyclePorts) (rest : List HostMove) (ev : Option (BitVec 4)),
    s.halt = true ∨ s.awaitKey = none →
    step { s with hostMoves := .cycle { p with keyEvent := ev } :: rest } =
      step { s with hostMoves := .cycle { p with keyEvent := none } :: rest }

/-- R77: the increment adds k, and past 0xFFF gives exactly 0x200 (the exact form is the spec's decision D13, log
entry 17). -/
def Obligations.AdvWrapsToProgramStart : Prop :=
  ∀ (p : Word) (k : Nat), k = 2 ∨ k = 4 →
    (p.toNat + k ≤ 0xFFF → (adv p k).toNat = p.toNat + k) ∧ (0xFFF < p.toNat + k → adv p k = 0x200#16)

/-- R80: the timers go down by one, floor zero, once in every Running cycle that does not fault, after the instruction,
also after a report. From the new value after SetDelayTimer or SetSoundTimer: R79, which the spec derives, with R125 and
R126. They stay in AwaitingKey cycles, the resolving one included (R85: the spec's decision D15, log entry 18), and in
Halted cycles and cycles that fault (R86, R78: the spec's decisions D32 and D3, log entry 21). -/
def Obligations.TimersTickOncePerRunningCycle : Prop :=
  ∀ (s s0 t : State) (p : CyclePorts), s.nextMove = (.cycle p, s0) → step s = .next t →
    (s.Running → t.halt = false →
      ((∀ x, decode (fetchedWord s) ≠ .ok (.setDelayTimer x)) → t.dt.toNat = s.dt.toNat - 1) ∧
      (∀ x, decode (fetchedWord s) = .ok (.setDelayTimer x) → t.dt.toNat = (s.reg x).toNat - 1) ∧
      ((∀ x, decode (fetchedWord s) ≠ .ok (.setSoundTimer x)) → t.st.toNat = s.st.toNat - 1) ∧
      (∀ x, decode (fetchedWord s) = .ok (.setSoundTimer x) → t.st.toNat = (s.reg x).toNat - 1)) ∧
    (s.halt = true ∨ s.awaitKey ≠ none → t.dt = s.dt ∧ t.st = s.st) ∧
    (s.Running → t.halt = true → t.dt = s.dt ∧ t.st = s.st)

/-- R82: the acknowledgement clears REDRAW at the start of every cycle that is not halted, before any instruction: after
the cycle REDRAW is set exactly if it was set and not acknowledged, or the cycle executed ClearScreen or DrawSprite
(without a fault) (the input is the spec's decision D18). -/
def Obligations.RedrawIsClearedByTheAcknowledgementFirst : Prop :=
  ∀ (s s0 t : State) (p : CyclePorts),
    s.nextMove = (.cycle p, s0) → s.halt = false → step s = .next t →
    (t.redraw = true ↔
      (s.redraw = true ∧ p.redrawAck = false) ∨
      (t.halt = false ∧ s.awaitKey = none ∧
        (decode (fetchedWord s) = .ok .clearScreen ∨
          ∃ x y n, decode (fetchedWord s) = .ok (.drawSprite x y n))))

/-- R72: a cycle always completes, and so does a reset: every step of every state answers a next state. -/
def Obligations.EveryStepAnswersANextState : Prop := ∀ s : State, ∃ t, step s = .next t

/-! ### Reset -/

/-- R36: the reset values the spec gives, with the glyph table at GLYPH_BASE, wherever that is (R149). -/
def Obligations.ResetStateHasTheSpecsValues : Prop :=
  (∀ r, State.reset.reg r = 0#8) ∧ State.reset.index = 0x0000#16 ∧ State.reset.pc = 0x0200#16 ∧
  (∀ k : Fin 16, State.reset.stack[k] = 0x0000#16) ∧ State.reset.sp.val = 0 ∧
  (∀ x y, State.reset.cell x y = false) ∧ State.reset.dt = 0x00#8 ∧ State.reset.st = 0x00#8 ∧
  State.reset.keys = 0#16 ∧ State.reset.awaitKey = none ∧ State.reset.redraw = false ∧
  State.reset.halt = false ∧ State.reset.fault.code = 0#4 ∧ State.reset.fault.info = 0#16 ∧
  (∀ k, k < 80 → State.reset.readByte (glyphBase + k) = glyphByte k) ∧
  (∀ a, a ≤ 0xFFF → ¬ (glyphBase ≤ a ∧ a < glyphBase + 80) → State.reset.readByte a = 0x00#8) ∧
  glyphBase + 80 ≤ 0x200

/-- R147 and R151: a reset step gives the reset state, whatever state it is asserted in, Halted included (R86), with the
ROM's bytes from 0x200, none above 0xFFF (R92: a ROM of at most 0xE00 bytes, and the host has no other move that
writes memory), and every other byte as after reset. The load is part of the reset move: the model's choice
(log entries 11 and 23). -/
def Obligations.ResetStepDiscardsAllStateAndLoadsTheRom : Prop :=
  ∀ (s : State) (rest : List HostMove) (rom : Rom),
    ∃ t, step { s with hostMoves := .reset rom :: rest } = .next t ∧
      (∀ (i : Nat) (h : i < rom.val.length), 0x200 + i ≤ 0xFFF ∧ t.readByte (0x200 + i) = rom.val[i]) ∧
      t.hostMoves = rest ∧ t.draws = s.draws ∧
      Frame (fun q => q = .hostMoves ∨ q = .draws ∨ ∃ i < rom.val.length, q = .byte (0x200 + i)) State.reset t

/-- R151: the load port ignores an address below 0x200 and writes any other one (the spec's decision D25). -/
def Obligations.LoadPortWritesFromProgramStartOnly : Prop :=
  ∀ (m : Memory) (addr : BitVec 12) (b : Byte) (a : Nat), m.wf = true →
    (m.loadPort addr b).read a = if a = addr.toNat ∧ 0x200 ≤ a then b else m.read a

/-! ### The invariant -/

/-- The invariant holds right after reset. -/
def Obligations.ResetMeetsTheInvariant : Prop := State.reset.Inv

/-- Every step keeps the invariant (R20, R31, R37, R134, R136): memory canonical, PC at most 0x10FE, return addresses in
memory, HALT exactly with a recorded fault, no wait and no report beside it. -/
def Obligations.EveryStepKeepsTheInvariant : Prop :=
  ∀ s t : State, s.Inv → step s = .next t → t.Inv

/-! ### Memory -/

/-- R44 and R48: a byte of memory is plain storage: a read gives the latest write to that address, every other address
reads as before, and the list stays canonical. -/
def Obligations.MemoryReadsTheLatestWrite : Prop :=
  ∀ (m : Memory) (a b : Nat) (v : Byte), m.wf = true → a ≤ 0xFFF →
    (m.write a v).read b = (if b = a then v else m.read b) ∧ (m.write a v).wf = true

/-! ### Faults and reports -/

/-- R78 and R137: a fault raised in a Running cycle, by the fetch or by the instruction, leaves everything as the cycle
found it except HALT and FAULT; PC still addresses the instruction and the timers did not tick (that these accesses
fault is the spec's decision D3 and D4, log entry 21). -/
def Obligations.FaultsArePrecise : Prop :=
  ∀ (s s0 t : State) (p : CyclePorts),
    s.nextMove = (.cycle p, s0) → s.Running → step s = .next t → t.halt = true →
    ∃ f : FaultRecord, f ≠ .noFault ∧ t = { cycleStart s0 p with halt := true, fault := f }

/-- R134: which instructions raise, when, and with what info: the key skips when V[x] > 0x0F, and StoreBcd,
DumpRegisters, LoadRegisters and DrawSprite when a byte of theirs lies above 0xFFF, with the lowest such address. No
other instruction raises (D3, D4, D30, log entry 21). -/
def Obligations.OnlySixInstructionsRaise : Prop :=
  ∀ (i : Instr) (s t : State), s.halt = false → exec i s = .next t → t.halt = true →
    (∃ x, (i = .skipIfKeyDown x ∨ i = .skipIfKeyUp x) ∧ 0x0F < (s.reg x).toNat ∧
      t.fault.code = 2#4 ∧ t.fault.info.toNat = (s.reg x).toNat) ∨
    (∃ last, ((∃ x, i = .storeBcd x ∧ last = 2) ∨ (∃ x, i = .dumpRegisters x ∧ last = x.toNat) ∨
        (∃ x, i = .loadRegisters x ∧ last = x.toNat) ∨
        (∃ x y n, i = .drawSprite x y n ∧ last + 1 = n.toNat)) ∧
      t.fault.code = 1#4 ∧
      0xFFF < t.fault.info.toNat ∧ s.index.toNat ≤ t.fault.info.toNat ∧
      t.fault.info.toNat ≤ s.index.toNat + last ∧
      ∀ a, s.index.toNat ≤ a → 0xFFF < a → t.fault.info.toNat ≤ a)

/-- R132: an executed instruction reports only StackOverflow (CallSub at SP = 16) or StackUnderflow (Return at SP = 0),
and never both a report and a fault (R136). -/
def Obligations.OnlyStackErrorsAreReported : Prop :=
  ∀ (i : Instr) (s t : State), s.diag = none → exec i s = .next t → t.diag ≠ none →
    t.halt = s.halt ∧
    ((∃ addr, i = .callSub addr ∧ s.sp.val = 16 ∧ t.diag = some (.stackOverflow s.pc)) ∨
      (i = .ret ∧ s.sp.val = 0 ∧ t.diag = some (.stackUnderflow s.pc)))

/-! ### Whole-machine rules -/

/-- R26, R30, R31, R35: no instruction writes KEYS, takes a host move or a random byte beyond its input, clears HALT or
clears REDRAW. -/
def Obligations.NoInstructionTouchesTheHostsSide : Prop :=
  ∀ (i : Instr) (s t : State), exec i s = .next t →
    t.keys = s.keys ∧ t.rnd = s.rnd ∧ t.hostMoves = s.hostMoves ∧ t.draws = s.draws ∧
    (s.halt = true → t.halt = true) ∧ (s.redraw = true → t.redraw = true)

/-- R39: of the instructions only StoreBcd and DumpRegisters write memory, StoreBcd at I .. I+2 and DumpRegisters at
I .. I+x, and never above 0xFFF (R42). -/
def Obligations.OnlyStoreBcdAndDumpWriteMemory : Prop :=
  ∀ (i : Instr) (s t : State) (a : Nat), s.mem.wf = true → exec i s = .next t → t.readByte a ≠ s.readByte a →
    s.index.toNat ≤ a ∧ a ≤ 0xFFF ∧
    ((∃ x, i = .storeBcd x ∧ a ≤ s.index.toNat + 2) ∨
      (∃ x, i = .dumpRegisters x ∧ a ≤ s.index.toNat + x.toNat))

/-- R22: no instruction but Return reads STACK and none but CallSub writes it: on a state that differs only in STACK,
any other instruction answers the state that differs only there. -/
def Obligations.OnlyCallSubAndRetTouchTheStack : Prop :=
  ∀ (i : Instr) (s : State) (other : Vector Word 16), i ≠ .ret → (∀ addr, i ≠ .callSub addr) →
    ∃ t, exec i s = .next t ∧ t.stack = s.stack ∧ exec i { s with stack := other } = .next { t with stack := other }

/-- R25 and R30: no instruction reads ST or REDRAW: on a state that differs only there, every instruction answers the
same in all other state. -/
def Obligations.NoInstructionReadsSoundTimerOrRedraw : Prop :=
  ∀ (i : Instr) (s : State) (st' : Byte) (redraw' : Bool),
    ∃ t u, exec i s = .next t ∧ exec i { s with st := st', redraw := redraw' } = .next u ∧
      Frame (fun q => q = .st ∨ q = .redraw) t u

/-- R32: VF changes only by the seven flag-writing instructions, or as the ordinary destination of an instruction that
names register 15. -/
def Obligations.VfHasOnlyTheListedWriters : Prop :=
  ∀ (i : Instr) (s t : State), exec i s = .next t → t.reg 0xF#4 ≠ s.reg 0xF#4 →
    (∃ x y, i = .addWithCarry x y ∨ i = .subtractForward x y ∨ i = .subtractReverse x y) ∨
    (∃ x, i = .shiftRight x ∨ i = .shiftLeft x ∨ i = .addRegisterToIndex x) ∨
    (∃ x y n, i = .drawSprite x y n) ∨
    (∃ b, i = .loadImmediate 0xF#4 b ∨ i = .addImmediateNoFlag 0xF#4 b ∨ i = .randomMask 0xF#4 b) ∨
    (∃ y, i = .copy 0xF#4 y ∨ i = .bitwiseOr 0xF#4 y ∨ i = .bitwiseAnd 0xF#4 y ∨ i = .bitwiseXor 0xF#4 y) ∨
    i = .loadRegisters 0xF#4 ∨ i = .readDelayTimer 0xF#4

/-! ### Control flow -/

/-- R94: the legacy call advances and changes nothing else, and the word 0x0000 is one. -/
def Obligations.LegacyCallOnlyAdvances : Prop :=
  (∀ (n : Nat), n < 0x1000 → n % 256 ≠ 0xE0 → n % 256 ≠ 0xEE →
    decode (BitVec.ofNat 16 n) = .ok (.call (BitVec.ofNat 16 n))) ∧
  ∀ (addr : Word) (s : State),
    ∃ t, exec (.call addr) s = .next t ∧ t.pc = adv s.pc 2 ∧ Frame (fun q => q = .pc) s t

/-- R95: the word 0x00E0; every cell unlit, REDRAW set even if nothing changes, advance. -/
def Obligations.ClearScreenUnlightsEveryCell : Prop :=
  decode 0x00E0#16 = .ok .clearScreen ∧
  ∀ s : State, ∃ t, exec .clearScreen s = .next t ∧ (∀ x y, t.cell x y = false) ∧ t.redraw = true ∧
    t.pc = adv s.pc 2 ∧ Frame (fun q => (∃ x y, q = .cell x y) ∨ q = .redraw ∨ q = .pc) s t

/-- R96: with a nonempty stack, Return pops: SP goes down by one and PC takes the entry there, which is not cleared
(D10, log entry 17). -/
def Obligations.ReturnPopsThePc : Prop :=
  ∀ s : State, 0 < s.sp.val →
    ∃ t, exec .ret s = .next t ∧ t.sp.val + 1 = s.sp.val ∧
      (∀ k : Fin 16, k.val + 1 = s.sp.val → t.pc = s.stack[k]) ∧ Frame (fun q => q = .sp ∨ q = .pc) s t

/-- R98: with room on the stack, CallSub pushes the address of the next instruction and jumps (D10, log entry 17). -/
def Obligations.CallSubPushesAndJumps : Prop :=
  ∀ (addr : Word) (s : State), s.sp.val < 16 →
    ∃ t, exec (.callSub addr) s = .next t ∧ t.sp.val = s.sp.val + 1 ∧ t.pc = addr ∧
      (∀ k : Fin 16, k.val = s.sp.val → t.stack[k] = adv s.pc 2) ∧
      Frame (fun q => q = .sp ∨ q = .pc ∨ ∃ k : Fin 16, k.val = s.sp.val ∧ q = .stackEntry k) s t

/-- R96 and R98: a Return at SP = 0 reports StackUnderflow, a CallSub at SP = 16 StackOverflow, with the PC as the info;
PC is held and nothing else changes (D11, D23, log entry 17). -/
def Obligations.StackErrorsReportAndHold : Prop :=
  ∀ s : State,
    (s.sp.val = 0 → exec .ret s = .next { s with diag := some (.stackUnderflow s.pc) }) ∧
    (s.sp.val = 16 → ∀ addr, exec (.callSub addr) s = .next { s with diag := some (.stackOverflow s.pc) })

/-- R97 and R99: the jumps set PC to the address, or for an encodable address to the exact sum of it and V0, neither
wrapped nor masked (D12, D33, log entries 17 and 20). -/
def Obligations.JumpsSetThePc : Prop :=
  ∀ (addr : Word) (s : State),
    (∃ t, exec (.jump addr) s = .next t ∧ t.pc = addr ∧ Frame (fun q => q = .pc) s t) ∧
    (addr.toNat ≤ 0xFFF →
      ∃ t, exec (.jumpIndexed addr) s = .next t ∧ t.pc.toNat = addr.toNat + (s.reg 0x0#4).toNat ∧
        Frame (fun q => q = .pc) s t)

/-! ### Skips -/

/-- R100 and R101: a register against an immediate. -/
def Obligations.ImmediateSkips : Prop :=
  ∀ (x : Reg) (imm : Byte) (s : State),
    (∃ t, exec (.skipIfEqual x imm) s = .next t ∧
      t.pc = adv s.pc (if (s.reg x).toNat = imm.toNat then 4 else 2) ∧ Frame (fun q => q = .pc) s t) ∧
    (∃ t, exec (.skipIfNotEqual x imm) s = .next t ∧
      t.pc = adv s.pc (if (s.reg x).toNat = imm.toNat then 2 else 4) ∧ Frame (fun q => q = .pc) s t)

/-- R102 and R103: two registers. -/
def Obligations.RegisterSkips : Prop :=
  ∀ (x y : Reg) (s : State),
    (∃ t, exec (.skipIfRegistersEqual x y) s = .next t ∧
      t.pc = adv s.pc (if (s.reg x).toNat = (s.reg y).toNat then 4 else 2) ∧ Frame (fun q => q = .pc) s t) ∧
    (∃ t, exec (.skipIfRegistersNotEqual x y) s = .next t ∧
      t.pc = adv s.pc (if (s.reg x).toNat = (s.reg y).toNat then 2 else 4) ∧ Frame (fun q => q = .pc) s t)

/-- R104 and R105: a key skip tests the key its register names; a register above 0x0F raises KeyIndex with that value,
and the skip has no other effect (the fault is the spec's decision D4, log entry 21). -/
def Obligations.KeySkipsTestTheKeyOrRaise : Prop :=
  ∀ (x : Reg) (s : State),
    ((s.reg x).toNat ≤ 0xF →
      (∃ t, exec (.skipIfKeyDown x) s = .next t ∧
        t.pc = adv s.pc (if s.keys.toNat.testBit (s.reg x).toNat then 4 else 2) ∧ Frame (fun q => q = .pc) s t) ∧
      (∃ t, exec (.skipIfKeyUp x) s = .next t ∧
        t.pc = adv s.pc (if s.keys.toNat.testBit (s.reg x).toNat then 2 else 4) ∧ Frame (fun q => q = .pc) s t)) ∧
    (0xF < (s.reg x).toNat →
      ∃ f : FaultRecord, f.code = 2#4 ∧ f.info.toNat = (s.reg x).toNat ∧
        exec (.skipIfKeyDown x) s = .next { s with halt := true, fault := f } ∧
        exec (.skipIfKeyUp x) s = .next { s with halt := true, fault := f })

/-! ### Register operations -/

/-- R106, with its encoding: 6xnn, `decode(0x6A12) == LoadImmediate(0xA, 0x12)`. -/
def Obligations.LoadImmediateWritesVx : Prop :=
  ∀ (x : Reg) (imm : Byte) (s : State),
    decode (BitVec.ofNat 16 (0x6000 + 256 * x.toNat + imm.toNat)) = .ok (.loadImmediate x imm) ∧
    ∃ t, exec (.loadImmediate x imm) s = .next t ∧ t.reg x = imm ∧ t.pc = adv s.pc 2 ∧
      Frame (fun q => q = .reg x ∨ q = .pc) s t

/-- R107: the sum modulo 256, and no flag. -/
def Obligations.AddImmediateWritesNoFlag : Prop :=
  ∀ (x : Reg) (imm : Byte) (s : State),
    ∃ t, exec (.addImmediateNoFlag x imm) s = .next t ∧
      (t.reg x).toNat = ((s.reg x).toNat + imm.toNat) % 256 ∧ t.pc = adv s.pc 2 ∧
      Frame (fun q => q = .reg x ∨ q = .pc) s t

/-- R108 to R111: Copy and the bitwise operations write Vx only; VF stays unless it is Vx (D7, log entry 16). -/
def Obligations.CopyAndBitwiseWriteVxOnly : Prop :=
  ∀ (x y : Reg) (s : State),
    (∃ t, exec (.copy x y) s = .next t ∧ t.reg x = s.reg y ∧ t.pc = adv s.pc 2 ∧
      Frame (fun q => q = .reg x ∨ q = .pc) s t) ∧
    (∃ t, exec (.bitwiseOr x y) s = .next t ∧
      (∀ k, k < 8 → (t.reg x).toNat.testBit k = ((s.reg x).toNat.testBit k || (s.reg y).toNat.testBit k)) ∧
      t.pc = adv s.pc 2 ∧ Frame (fun q => q = .reg x ∨ q = .pc) s t) ∧
    (∃ t, exec (.bitwiseAnd x y) s = .next t ∧
      (∀ k, k < 8 → (t.reg x).toNat.testBit k = ((s.reg x).toNat.testBit k && (s.reg y).toNat.testBit k)) ∧
      t.pc = adv s.pc 2 ∧ Frame (fun q => q = .reg x ∨ q = .pc) s t) ∧
    (∃ t, exec (.bitwiseXor x y) s = .next t ∧
      (∀ k, k < 8 → (t.reg x).toNat.testBit k = ((s.reg x).toNat.testBit k ^^ (s.reg y).toNat.testBit k)) ∧
      t.pc = adv s.pc 2 ∧ Frame (fun q => q = .reg x ∨ q = .pc) s t)

/-- R112: the low 8 bits of the exact sum and the carry in VF; with x = 15 VF holds the carry, with y = 15 the old VF is
the addend (D5, D6, log entry 16). -/
def Obligations.AddWithCarrySumsAndFlags : Prop :=
  ∀ (x y : Reg) (s : State),
    ∃ t, exec (.addWithCarry x y) s = .next t ∧
      (x ≠ 0xF#4 → (t.reg x).toNat = ((s.reg x).toNat + (s.reg y).toNat) % 256) ∧
      (t.reg 0xF#4).toNat = (if 255 < (s.reg x).toNat + (s.reg y).toNat then 1 else 0) ∧
      t.pc = adv s.pc 2 ∧ Frame (fun q => q = .reg x ∨ q = .reg 0xF#4 ∨ q = .pc) s t

/-- R113 and R114: the difference modulo 256, Vx - Vy or Vy - Vx, and VF = 1 exactly when there is no borrow; with
x = 15 VF holds the flag (D5, D6, log entry 16). -/
def Obligations.SubtractsDifferAndFlagNoBorrow : Prop :=
  ∀ (x y : Reg) (s : State),
    (∃ t, exec (.subtractForward x y) s = .next t ∧
      (x ≠ 0xF#4 → ((t.reg x).toNat : Int) = (((s.reg x).toNat : Int) - (s.reg y).toNat) % 256) ∧
      (t.reg 0xF#4).toNat = (if (s.reg y).toNat ≤ (s.reg x).toNat then 1 else 0) ∧
      t.pc = adv s.pc 2 ∧ Frame (fun q => q = .reg x ∨ q = .reg 0xF#4 ∨ q = .pc) s t) ∧
    (∃ t, exec (.subtractReverse x y) s = .next t ∧
      (x ≠ 0xF#4 → ((t.reg x).toNat : Int) = (((s.reg y).toNat : Int) - (s.reg x).toNat) % 256) ∧
      (t.reg 0xF#4).toNat = (if (s.reg x).toNat ≤ (s.reg y).toNat then 1 else 0) ∧
      t.pc = adv s.pc 2 ∧ Frame (fun q => q = .reg x ∨ q = .reg 0xF#4 ∨ q = .pc) s t)

/-- R115 and R116: the shifts by one, with the bit shifted out in VF; with x = 15 VF holds that bit (D5, log
entry 16). -/
def Obligations.ShiftsMoveOneBitIntoVf : Prop :=
  ∀ (x : Reg) (s : State),
    (∃ t, exec (.shiftRight x) s = .next t ∧ (x ≠ 0xF#4 → (t.reg x).toNat = (s.reg x).toNat / 2) ∧
      (t.reg 0xF#4).toNat = (s.reg x).toNat % 2 ∧
      t.pc = adv s.pc 2 ∧ Frame (fun q => q = .reg x ∨ q = .reg 0xF#4 ∨ q = .pc) s t) ∧
    (∃ t, exec (.shiftLeft x) s = .next t ∧ (x ≠ 0xF#4 → (t.reg x).toNat = (s.reg x).toNat * 2 % 256) ∧
      (t.reg 0xF#4).toNat = (s.reg x).toNat / 128 ∧
      t.pc = adv s.pc 2 ∧ Frame (fun q => q = .reg x ∨ q = .reg 0xF#4 ∨ q = .pc) s t)

/-! ### Memory and index -/

/-- R118 and R120: I takes the address, or GLYPH_BASE + 5 * V[x] for the whole register value, wherever GLYPH_BASE is
(log entry 7). -/
def Obligations.IndexTakesAddressOrGlyph : Prop :=
  ∀ (addr : Word) (x : Reg) (s : State),
    (∃ t, exec (.setIndex addr) s = .next t ∧ t.index = addr ∧ t.pc = adv s.pc 2 ∧
      Frame (fun q => q = .index ∨ q = .pc) s t) ∧
    (∃ t, exec (.setIndexToGlyph x) s = .next t ∧ t.index.toNat = glyphBase + 5 * (s.reg x).toNat ∧
      t.pc = adv s.pc 2 ∧ Frame (fun q => q = .index ∨ q = .pc) s t)

/-- R119: I takes the exact sum truncated to 16 bits, and VF tells whether the exact sum is beyond 0xFFF; with x = 15
the old VF is the addend (D6, C8). -/
def Obligations.AddRegisterToIndexFlagsBeyondMemory : Prop :=
  ∀ (x : Reg) (s : State),
    ∃ t, exec (.addRegisterToIndex x) s = .next t ∧
      t.index.toNat = (s.index.toNat + (s.reg x).toNat) % 65536 ∧
      (t.reg 0xF#4).toNat = (if 0xFFF < s.index.toNat + (s.reg x).toNat then 1 else 0) ∧
      t.pc = adv s.pc 2 ∧ Frame (fun q => q = .index ∨ q = .reg 0xF#4 ∨ q = .pc) s t

/-- R121: the three decimal digits at I, I+1, I+2, I itself unchanged. -/
def Obligations.StoreBcdStoresTheDigits : Prop :=
  ∀ (x : Reg) (s : State), s.mem.wf = true → s.index.toNat + 2 ≤ 0xFFF →
    ∃ t, exec (.storeBcd x) s = .next t ∧
      (t.readByte s.index.toNat).toNat = (s.reg x).toNat / 100 ∧
      (t.readByte (s.index.toNat + 1)).toNat = (s.reg x).toNat / 10 % 10 ∧
      (t.readByte (s.index.toNat + 2)).toNat = (s.reg x).toNat % 10 ∧ t.pc = adv s.pc 2 ∧
      Frame (fun q => q = .pc ∨ ∃ k < 3, q = .byte (s.index.toNat + k)) s t

/-- R122: V0 to Vx, inclusive, at I .. I+x, I itself unchanged. -/
def Obligations.DumpStoresV0ThroughVx : Prop :=
  ∀ (x : Reg) (s : State), s.mem.wf = true → s.index.toNat + x.toNat ≤ 0xFFF →
    ∃ t, exec (.dumpRegisters x) s = .next t ∧
      (∀ k : Reg, k.toNat ≤ x.toNat → t.readByte (s.index.toNat + k.toNat) = s.reg k) ∧ t.pc = adv s.pc 2 ∧
      Frame (fun q => q = .pc ∨ ∃ k ≤ x.toNat, q = .byte (s.index.toNat + k)) s t

/-- R123: V0 to Vx, inclusive, from I .. I+x; the registers above x and I unchanged. -/
def Obligations.LoadReadsV0ThroughVx : Prop :=
  ∀ (x : Reg) (s : State), s.index.toNat + x.toNat ≤ 0xFFF →
    ∃ t, exec (.loadRegisters x) s = .next t ∧
      (∀ k : Reg, k.toNat ≤ x.toNat → t.reg k = s.readByte (s.index.toNat + k.toNat)) ∧ t.pc = adv s.pc 2 ∧
      Frame (fun q => q = .pc ∨ ∃ k : Reg, k.toNat ≤ x.toNat ∧ q = .reg k) s t

/-- R42, R121, R122, R123, R128: when a byte of the instruction lies above 0xFFF it raises MemoryBounds with the lowest
such address and has no other effect (the spec's decisions D3 and D30, log entry 21). -/
def Obligations.RangesAboveMemoryRaise : Prop :=
  ∀ (s : State),
    let raised := Host.Outcome.next (φ := Fault) (ρ := Refusal)
      { s with halt := true, fault := .memoryBounds (if 0xFFF < s.index.toNat then s.index else 0x1000#16) }
    (∀ x, 0xFFF < s.index.toNat + 2 → exec (.storeBcd x) s = raised) ∧
    (∀ x : Reg, 0xFFF < s.index.toNat + x.toNat →
      exec (.dumpRegisters x) s = raised ∧ exec (.loadRegisters x) s = raised) ∧
    (∀ (x y : Reg) (n : BitVec 4), 0 < n.toNat → 0xFFF < s.index.toNat + (n.toNat - 1) →
      exec (.drawSprite x y n) s = raised)

/-! ### Timers, input, display and random -/

/-- R124, R125, R126: ReadDelayTimer copies DT, SetDelayTimer and SetSoundTimer set the timers; the tick comes after
(R79). -/
def Obligations.TimerInstructionsMoveTheTimers : Prop :=
  ∀ (x : Reg) (s : State),
    (∃ t, exec (.readDelayTimer x) s = .next t ∧ t.reg x = s.dt ∧ t.pc = adv s.pc 2 ∧
      Frame (fun q => q = .reg x ∨ q = .pc) s t) ∧
    (∃ t, exec (.setDelayTimer x) s = .next t ∧ t.dt = s.reg x ∧ t.pc = adv s.pc 2 ∧
      Frame (fun q => q = .dt ∨ q = .pc) s t) ∧
    (∃ t, exec (.setSoundTimer x) s = .next t ∧ t.st = s.reg x ∧ t.pc = adv s.pc 2 ∧
      Frame (fun q => q = .st ∨ q = .pc) s t)

/-- R127 and R84: WaitForKey captures its register, leaves PC and everything else unchanged, and so the next cycle starts
in AwaitingKey. -/
def Obligations.WaitForKeyCapturesItsRegister : Prop :=
  ∀ (x : Reg) (s : State), s.halt = false →
    ∃ t, exec (.waitForKey x) s = .next t ∧ t.awaitKey = some x ∧ t.pc = s.pc ∧ t.driverState = .awaitingKey x ∧
      Frame (fun q => q = .awaitKey) s t

/-- R128: every cell is flipped exactly if a 1 bit of the sprite falls on it, both axes wrapping; VF is 1 exactly if one
of those cells was lit; REDRAW is set. The bit order is the spec's decision D16, the coordinates are read before VF is
written by D6 (log entries 16 and 19). -/
def Obligations.DrawSpriteFlipsAndFlagsCollision : Prop :=
  ∀ (x y : Reg) (n : BitVec 4) (s : State), n.toNat = 0 ∨ s.index.toNat + (n.toNat - 1) ≤ 0xFFF →
    ∃ t, exec (.drawSprite x y n) s = .next t ∧
      (∀ cx cy, s.SpriteLit x y n.toNat cx cy → t.cell cx cy = !s.cell cx cy) ∧
      (t.reg 0xF#4 = 1#8 ∨ t.reg 0xF#4 = 0#8) ∧
      (t.reg 0xF#4 = 1#8 ↔ ∃ cx cy, s.SpriteLit x y n.toNat cx cy ∧ s.cell cx cy = true) ∧
      t.redraw = true ∧ t.pc = adv s.pc 2 ∧
      Frame (fun q => q = .reg 0xF#4 ∨ q = .redraw ∨ q = .pc ∨
        ∃ cx cy, s.SpriteLit x y n.toNat cx cy ∧ q = .cell cx cy) s t

/-- R129: Vx takes the cycle's random byte, whatever it is, masked by nn. -/
def Obligations.RandomMaskMasksTheRandomByte : Prop :=
  ∀ (x : Reg) (mask : Byte) (s : State),
    ∃ t, exec (.randomMask x mask) s = .next t ∧
      (∀ k, k < 8 → (t.reg x).toNat.testBit k = (s.rnd.toNat.testBit k && mask.toNat.testBit k)) ∧
      t.pc = adv s.pc 2 ∧ Frame (fun q => q = .reg x ∨ q = .pc) s t

/-! ### Laws over two instructions -/

/-- R130(a): a second draw of the same sprite, coordinates not in VF, restores every cell, and sets VF exactly when a
cell under a 1 bit was unlit before the first draw. -/
def Obligations.DrawingTwiceRestoresTheScreen : Prop :=
  ∀ (x y : Reg) (n : BitVec 4) (s : State), x ≠ 0xF#4 → y ≠ 0xF#4 →
    n.toNat = 0 ∨ s.index.toNat + (n.toNat - 1) ≤ 0xFFF →
    ∃ t u, exec (.drawSprite x y n) s = .next t ∧ exec (.drawSprite x y n) t = .next u ∧ u.fb = s.fb ∧
      (u.reg 0xF#4 = 1#8 ↔ ∃ cx cy, s.SpriteLit x y n.toNat cx cy ∧ s.cell cx cy = false)

/-- R96 and R98: a Return right after a CallSub comes back to the instruction after the CallSub, with SP as before
(D10, log entry 17). -/
def Obligations.ReturnComesBackBehindTheCall : Prop :=
  ∀ (addr : Word) (s : State), s.sp.val < 16 →
    ∃ t u, exec (.callSub addr) s = .next t ∧ exec .ret t = .next u ∧ u.pc = adv s.pc 2 ∧
      Frame (fun q => q = .pc ∨ ∃ k : Fin 16, k.val = s.sp.val ∧ q = .stackEntry k) s u

/-- §8 (W8): DumpRegisters(x) then LoadRegisters(x) with the same I restores V0..Vx, whatever the registers hold in
between. -/
def Obligations.LoadAfterDumpRestoresTheRegisters : Prop :=
  ∀ (x : Reg) (s : State) (other : Vector Byte 16), s.mem.wf = true → s.index.toNat + x.toNat ≤ 0xFFF →
    ∃ t u, exec (.dumpRegisters x) s = .next t ∧ exec (.loadRegisters x) { t with v := other } = .next u ∧
      ∀ k : Reg, k.toNat ≤ x.toNat → u.reg k = s.reg k

/-- §8 (W11): SubtractForward after AddWithCarry with the same operands restores Vx, also when the addition wraps,
provided neither register is VF (D5). -/
def Obligations.SubtractUndoesAdd : Prop :=
  ∀ (x y : Reg) (s : State), x ≠ 0xF#4 → y ≠ 0xF#4 → x ≠ y →
    ∃ t u, exec (.addWithCarry x y) s = .next t ∧ exec (.subtractForward x y) t = .next u ∧ u.reg x = s.reg x
end

