-- ==== Sys2Proof/Laws/Decode.lean ====
section
/-! SUPPORT. The fields of a word as numbers, the fields of an encoded word, and the decoder on numbers. -/

namespace Sys2Proof.Laws

/-! ### Fields as numbers (R55) -/

theorem opField_toNat (w : Word) : (opField w).toNat = w.toNat / 4096 := by
  have := w.isLt
  simp [opField, Nat.shiftRight_eq_div_pow]; omega

theorem xField_toNat (w : Word) : (xField w).toNat = w.toNat / 256 % 16 := by
  simp [xField, Nat.shiftRight_eq_div_pow]

theorem yField_toNat (w : Word) : (yField w).toNat = w.toNat / 16 % 16 := by
  simp [yField, Nat.shiftRight_eq_div_pow]

theorem nField_toNat (w : Word) : (nField w).toNat = w.toNat % 16 := by
  simp [nField]

theorem nnField_toNat (w : Word) : (nnField w).toNat = w.toNat % 256 := by
  simp [nnField]

theorem addrField_toNat (w : Word) : (addrField w).toNat = w.toNat % 4096 := by
  simp [addrField]; omega

/-! ### Encoded words as numbers (R56) -/

theorem toNat_append_eq {m n : Nat} (a : BitVec m) (b : BitVec n) :
    (a ++ b).toNat = a.toNat * 2 ^ n + b.toNat := by
  rw [BitVec.toNat_append, ← Nat.shiftLeft_add_eq_or_of_lt b.isLt, Nat.shiftLeft_eq]

theorem encodeXI_toNat (op : BitVec 4) (x : Reg) (nn : Byte) :
    (encodeXI op x nn).toNat = op.toNat * 4096 + x.toNat * 256 + nn.toNat := by
  unfold encodeXI; rw [toNat_append_eq, toNat_append_eq]; omega

theorem encodeXY_toNat (op : BitVec 4) (x y : Reg) (n : BitVec 4) :
    (encodeXY op x y n).toNat = op.toNat * 4096 + x.toNat * 256 + y.toNat * 16 + n.toNat := by
  unfold encodeXY; rw [toNat_append_eq, toNat_append_eq, toNat_append_eq]; omega

theorem encodeAddr_toNat (op : BitVec 4) (addr : Word) :
    (encodeAddr op addr).toNat = op.toNat * 4096 + addr.toNat % 4096 := by
  unfold encodeAddr; rw [toNat_append_eq]; simp

/-! ### The fields of an encoded word -/

@[simp] theorem opField_encodeXI (op : BitVec 4) (x : Reg) (nn : Byte) : opField (encodeXI op x nn) = op := by
  apply BitVec.eq_of_toNat_eq; rw [opField_toNat, encodeXI_toNat]; omega

@[simp] theorem xField_encodeXI (op : BitVec 4) (x : Reg) (nn : Byte) : xField (encodeXI op x nn) = x := by
  apply BitVec.eq_of_toNat_eq; rw [xField_toNat, encodeXI_toNat]; omega

@[simp] theorem nnField_encodeXI (op : BitVec 4) (x : Reg) (nn : Byte) : nnField (encodeXI op x nn) = nn := by
  apply BitVec.eq_of_toNat_eq; rw [nnField_toNat, encodeXI_toNat]; omega

@[simp] theorem opField_encodeXY (op : BitVec 4) (x y : Reg) (n : BitVec 4) : opField (encodeXY op x y n) = op := by
  apply BitVec.eq_of_toNat_eq; rw [opField_toNat, encodeXY_toNat]; omega

@[simp] theorem xField_encodeXY (op : BitVec 4) (x y : Reg) (n : BitVec 4) : xField (encodeXY op x y n) = x := by
  apply BitVec.eq_of_toNat_eq; rw [xField_toNat, encodeXY_toNat]; omega

@[simp] theorem yField_encodeXY (op : BitVec 4) (x y : Reg) (n : BitVec 4) : yField (encodeXY op x y n) = y := by
  apply BitVec.eq_of_toNat_eq; rw [yField_toNat, encodeXY_toNat]; omega

@[simp] theorem nField_encodeXY (op : BitVec 4) (x y : Reg) (n : BitVec 4) : nField (encodeXY op x y n) = n := by
  apply BitVec.eq_of_toNat_eq; rw [nField_toNat, encodeXY_toNat]; omega

@[simp] theorem opField_encodeAddr (op : BitVec 4) (addr : Word) : opField (encodeAddr op addr) = op := by
  apply BitVec.eq_of_toNat_eq; rw [opField_toNat, encodeAddr_toNat]; omega

theorem addrField_encodeAddr (op : BitVec 4) (addr : Word) (h : addrOk addr = true) :
    addrField (encodeAddr op addr) = addr := by
  have h : addr.toNat ≤ 0xFFF := by simpa [addrOk] using h
  apply BitVec.eq_of_toNat_eq; rw [addrField_toNat, encodeAddr_toNat]; omega

theorem nnField_encodeAddr_toNat (op : BitVec 4) (addr : Word) :
    (nnField (encodeAddr op addr)).toNat = addr.toNat % 256 := by
  rw [nnField_toNat, encodeAddr_toNat]; omega

/-! ### The bits a row fixes and the bits it reads (R56, R67) -/

theorem and_F000 (w : Word) : w &&& 0xF000#16 = opField w ++ 0#12 := by
  apply BitVec.eq_of_getLsbD_eq; intro k hk
  simp only [opField, BitVec.getLsbD_and, BitVec.getLsbD_append, BitVec.getLsbD_extractLsb']
  interval_cases k <;> simp

theorem and_F0FF (w : Word) : w &&& 0xF0FF#16 = opField w ++ (0#4 ++ nnField w) := by
  apply BitVec.eq_of_getLsbD_eq; intro k hk
  simp only [opField, nnField, BitVec.getLsbD_and, BitVec.getLsbD_append, BitVec.getLsbD_extractLsb']
  interval_cases k <;> simp

theorem and_F00F (w : Word) : w &&& 0xF00F#16 = opField w ++ (0#8 ++ nField w) := by
  apply BitVec.eq_of_getLsbD_eq; intro k hk
  simp only [opField, nField, BitVec.getLsbD_and, BitVec.getLsbD_append, BitVec.getLsbD_extractLsb']
  interval_cases k <;> simp

theorem and_FFF0 (w : Word) : w &&& 0xFFF0#16 = encodeXY (opField w) (xField w) (yField w) 0#4 := by
  apply BitVec.eq_of_getLsbD_eq; intro k hk
  simp only [encodeXY, opField, xField, yField, BitVec.getLsbD_and, BitVec.getLsbD_append, BitVec.getLsbD_extractLsb']
  interval_cases k <;> simp

theorem and_FF0F (w : Word) : w &&& 0xFF0F#16 = encodeXY (opField w) (xField w) 0#4 (nField w) := by
  apply BitVec.eq_of_getLsbD_eq; intro k hk
  simp only [encodeXY, opField, xField, nField, BitVec.getLsbD_and, BitVec.getLsbD_append, BitVec.getLsbD_extractLsb']
  interval_cases k <;> simp
/-- A word is put together again from its fields (R55). -/
theorem encodeXI_fields (w : Word) : encodeXI (opField w) (xField w) (nnField w) = w := by
  apply BitVec.eq_of_toNat_eq; rw [encodeXI_toNat, opField_toNat, xField_toNat, nnField_toNat]; omega

theorem encodeXY_fields (w : Word) : encodeXY (opField w) (xField w) (yField w) (nField w) = w := by
  apply BitVec.eq_of_toNat_eq; rw [encodeXY_toNat, opField_toNat, xField_toNat, yField_toNat, nField_toNat]; omega

theorem encodeAddr_fields (w : Word) : encodeAddr (opField w) (addrField w) = w := by
  apply BitVec.eq_of_toNat_eq; rw [encodeAddr_toNat, opField_toNat, addrField_toNat]; omega

/-! ### The encodable addresses -/

/-- A decoded address operand is at most 0xFFF (R57). -/
theorem addrField_le (w : Word) : (addrField w).toNat ≤ 0xFFF := by
  rw [addrField_toNat]; omega

theorem addrOk_addrField (w : Word) : addrOk (addrField w) = true := by
  simpa [addrOk] using addrField_le w

/-- A nibble is one of its sixteen values: the case split of the primary dispatch. -/
theorem nibble_cases (n : BitVec 4) :
    n = 0x0#4 ∨ n = 0x1#4 ∨ n = 0x2#4 ∨ n = 0x3#4 ∨ n = 0x4#4 ∨ n = 0x5#4 ∨ n = 0x6#4 ∨ n = 0x7#4 ∨
    n = 0x8#4 ∨ n = 0x9#4 ∨ n = 0xA#4 ∨ n = 0xB#4 ∨ n = 0xC#4 ∨ n = 0xD#4 ∨ n = 0xE#4 ∨ n = 0xF#4 := by
  revert n; decide

end Sys2Proof.Laws
end

