-- ==== Sys2Proof/Laws/Display.lean ====
section
/-! SUPPORT. What a draw does to the framebuffer and when it collides (R128): the loop over rows and columns is a list
of pixels on pairwise distinct cells (R130b), and each flips its own cell only. -/

namespace Sys2Proof.Machine

theorem cell_flip (fb : Framebuffer) (x cx : Fin 64) (y cy : Fin 32) :
    Framebuffer.cell (Framebuffer.flip fb x y) cx cy =
      if cx = x ∧ cy = y then !Framebuffer.cell fb cx cy else Framebuffer.cell fb cx cy := by
  unfold Framebuffer.cell Framebuffer.flip
  by_cases hy : cy = y
  · subst hy
    have hb : (1#64 <<< x.val).getLsbD cx.val = decide (cx = x) := by
      by_cases hx : cx = x
      · simp [hx]
      · have : cx.val ≠ x.val := fun e => hx (Fin.ext e)
        simp [hx]; omega
    have hf : (fb.set cy.val (fb[cy] ^^^ (1#64 <<< x.val)) cy.isLt)[cy] = fb[cy] ^^^ (1#64 <<< x.val) := by simp
    rw [hf, BitVec.getLsbD_xor, hb]
    by_cases hx : cx = x <;> simp [hx]
  · have : y.val ≠ cy.val := fun e => hy (Fin.ext e.symm)
    simp [hy, this]

@[simp] theorem cell_blank (x : Fin 64) (y : Fin 32) : Framebuffer.cell Framebuffer.blank x y = false := by
  simp [Framebuffer.cell, Framebuffer.blank]

/-- Two framebuffers with the same cells are the same. -/
theorem fb_ext (f g : Framebuffer) (h : ∀ x y, Framebuffer.cell f x y = Framebuffer.cell g x y) : f = g := by
  apply Vector.ext; intro y hy
  apply BitVec.eq_of_getLsbD_eq; intro x hx
  exact h ⟨x, hx⟩ ⟨y, hy⟩

/-- One pixel to draw: its cell and its bit. -/
abbrev Pixel := (Fin 64 × Fin 32) × Bool

/-- Drawing a list of pixels in order. -/
def drawPixels (ps : List Pixel) (acc : Framebuffer × Bool) : Framebuffer × Bool :=
  ps.foldl (fun acc p => drawPixel acc p.1.1 p.1.2 p.2) acc

/-- The pixels of a sprite in the order R128 draws them. -/
def spritePixels (px py : Byte) (n : Nat) (byteOf : Nat → Byte) : List Pixel :=
  (List.range n).flatMap fun row =>
    (List.range 8).map fun col => ((spriteX px col, spriteY py row), spriteBit (byteOf row) col)

theorem drawRows_eq (px py : Byte) (n : Nat) (byteOf : Nat → Byte) (fb : Framebuffer) :
    drawRows px py n byteOf fb = drawPixels (spritePixels px py n byteOf) (fb, false) := by
  unfold drawRows drawPixels spritePixels drawRow
  rw [List.foldl_flatMap]
  simp only [List.foldl_map]

/-- Pixels on distinct cells: each cell flips exactly if a lit pixel stands on it, and the collision bit tells whether
one of those cells was lit. -/
theorem drawPixels_spec (ps : List Pixel) (hd : (ps.map Prod.fst).Nodup) (acc : Framebuffer × Bool) :
    (∀ cx cy, Framebuffer.cell (drawPixels ps acc).1 cx cy =
      if ((cx, cy), true) ∈ ps then !Framebuffer.cell acc.1 cx cy else Framebuffer.cell acc.1 cx cy) ∧
    ((drawPixels ps acc).2 = true ↔
      acc.2 = true ∨ ∃ cx cy, ((cx, cy), true) ∈ ps ∧ Framebuffer.cell acc.1 cx cy = true) := by
  induction ps generalizing acc with
  | nil => simp [drawPixels]
  | cons p ps ih =>
    obtain ⟨⟨x, y⟩, bit⟩ := p
    simp only [List.map_cons, List.nodup_cons] at hd
    obtain ⟨hn, hd⟩ := hd
    have hstep : drawPixels (((x, y), bit) :: ps) acc = drawPixels ps (drawPixel acc x y bit) := rfl
    obtain ⟨ihc, ihf⟩ := ih hd (drawPixel acc x y bit)
    have hxy : ∀ b, ((x, y), b) ∉ ps := fun b hb => hn (List.mem_map.mpr ⟨_, hb, rfl⟩)
    rw [hstep]
    cases bit with
    | false =>
      have hacc : drawPixel acc x y false = acc := rfl
      rw [hacc] at ihc ihf
      rw [hacc]
      refine ⟨fun cx cy => ?_, ?_⟩
      · rw [ihc]; simp
      · rw [ihf]; simp
    | true =>
      have h1 : (drawPixel acc x y true).1 = Framebuffer.flip acc.1 x y := rfl
      have h2 : (drawPixel acc x y true).2 = (acc.2 || Framebuffer.cell acc.1 x y) := rfl
      rw [h1] at ihc ihf
      rw [h2] at ihf
      refine ⟨fun cx cy => ?_, ?_⟩
      · rw [ihc, cell_flip]
        by_cases h : cx = x ∧ cy = y
        · obtain ⟨rfl, rfl⟩ := h
          simp [hxy]
        · have : ((cx, cy), true) ∈ ((x, y), true) :: ps ↔ ((cx, cy), true) ∈ ps := by
            simp [h]
          simp only [this, h, if_false]
      · rw [ihf]
        constructor
        · rintro (h | ⟨cx, cy, hm, hc⟩)
          · simp only [Bool.or_eq_true] at h
            rcases h with h | h
            · exact .inl h
            · exact .inr ⟨x, y, by simp, h⟩
          · rw [cell_flip] at hc
            have hne : ¬ (cx = x ∧ cy = y) := by
              rintro ⟨rfl, rfl⟩; exact hxy _ hm
            rw [if_neg hne] at hc
            exact .inr ⟨cx, cy, by simp [hm], hc⟩
        · rintro (h | ⟨cx, cy, hm, hc⟩)
          · exact .inl (by simp [h])
          · rcases List.mem_cons.mp hm with he | hps
            · simp only [Prod.mk.injEq, and_true] at he
              obtain ⟨rfl, rfl⟩ := he
              exact .inl (by simp [hc])
            · refine .inr ⟨cx, cy, hps, ?_⟩
              have hne : ¬ (cx = x ∧ cy = y) := by
                rintro ⟨rfl, rfl⟩; exact hxy _ hps
              rw [cell_flip, if_neg hne]; exact hc

/-- One draw never touches a cell twice: 8 columns are fewer than 64 and at most 32 rows fewer than the screen's
(R128, R130b). -/
theorem spritePixels_nodup (px py : Byte) (n : Nat) (hn : n ≤ 32) (byteOf : Nat → Byte) :
    ((spritePixels px py n byteOf).map Prod.fst).Nodup := by
  have : (spritePixels px py n byteOf).map Prod.fst =
      (List.range n).flatMap fun row => (List.range 8).map fun col => (spriteX px col, spriteY py row) := by
    simp only [spritePixels, List.map_flatMap, List.map_map]; rfl
  rw [this, List.nodup_flatMap]
  refine ⟨fun row _ => ?_, ?_⟩
  · refine List.Nodup.map_on ?_ List.nodup_range
    intro a ha b hb h
    simp only [List.mem_range] at ha hb
    have := congrArg (fun p : Fin 64 × Fin 32 => p.1.val) h
    simp only [spriteX, Fin.ofNat] at this
    omega
  · refine List.Pairwise.imp_of_mem ?_ (List.nodup_range (n := n))
    intro a b ha hb hab
    simp only [List.mem_range] at ha hb
    rw [Function.onFun, List.disjoint_left]
    intro p hp hq
    simp only [List.mem_map] at hp hq
    obtain ⟨_, _, rfl⟩ := hp
    obtain ⟨_, _, h⟩ := hq
    have := congrArg (fun p : Fin 64 × Fin 32 => p.2.val) h
    simp only [spriteY, Fin.ofNat] at this
    omega

theorem mem_spritePixels (px py : Byte) (n : Nat) (byteOf : Nat → Byte) (cx : Fin 64) (cy : Fin 32) :
    ((cx, cy), true) ∈ spritePixels px py n byteOf ↔
      ∃ row < n, ∃ col < 8, cx.val = (px.toNat + col) % 64 ∧ cy.val = (py.toNat + row) % 32 ∧
        (byteOf row).toNat.testBit (7 - col) = true := by
  simp only [spritePixels, List.mem_flatMap, List.mem_map, List.mem_range, Prod.mk.injEq]
  constructor
  · rintro ⟨row, hr, col, hc, ⟨rfl, rfl⟩, hb⟩
    exact ⟨row, hr, col, hc, rfl, rfl, hb⟩
  · rintro ⟨row, hr, col, hc, hx, hy, hb⟩
    exact ⟨row, hr, col, hc, ⟨Fin.ext hx.symm, Fin.ext hy.symm⟩, hb⟩

/-- A draw of n rows, all it does (R128). -/
theorem drawRows_spec (px py : Byte) (n : Nat) (hn : n ≤ 32) (byteOf : Nat → Byte) (fb : Framebuffer) :
    (∀ cx cy, Framebuffer.cell (drawRows px py n byteOf fb).1 cx cy =
      if ((cx, cy), true) ∈ spritePixels px py n byteOf then !Framebuffer.cell fb cx cy
      else Framebuffer.cell fb cx cy) ∧
    ((drawRows px py n byteOf fb).2 = true ↔
      ∃ cx cy, ((cx, cy), true) ∈ spritePixels px py n byteOf ∧ Framebuffer.cell fb cx cy = true) := by
  rw [drawRows_eq]
  have := drawPixels_spec _ (spritePixels_nodup px py n hn byteOf) (fb, false)
  simpa using this

end Sys2Proof.Machine
end

