-- ==== Sys2Proof/Laws/Memory.lean ====
section
/-! SUPPORT. What reading and writing memory do, and that every memory operation keeps the canonical form. -/

namespace Sys2Proof.Machine

/-! ### The lists of cells -/

theorem read_consByte (a k : Nat) (b : Byte) (rest : Memory) (h : Memory.read rest a = unlistedByte a) :
    (Memory.consByte a b rest).read k = if k = a then b else rest.read k := by
  unfold Memory.consByte
  by_cases hb : b = unlistedByte a
  · by_cases hk : k = a <;> simp_all
  · simp only [hb, if_false, Memory.read]
    by_cases hk : k = a
    · simp [hk]
    · simp [hk, Ne.symm hk]

/-- An address below every listed one reads as unlisted. -/
theorem read_of_all_gt (m : Memory) (a : Nat) (h : ∀ c ∈ m, a < c.1) : m.read a = unlistedByte a := by
  induction m with
  | nil => rfl
  | cons c rest ih =>
    have hc : a < c.1 := h c (by simp)
    have : c.1 ≠ a := by omega
    simp [Memory.read, this, ih fun d hd => h d (by simp [hd])]

/-- The canonical form, unfolded once. -/
theorem wf_cons (a : Nat) (b : Byte) (rest : Memory) :
    Memory.wf ((a, b) :: rest) = true ↔
      a ≤ 0xFFF ∧ b ≠ unlistedByte a ∧ (∀ c ∈ rest, a < c.1) ∧ Memory.wf rest = true := by
  simp only [Memory.wf, Bool.and_eq_true, decide_eq_true_eq, List.all_eq_true, and_assoc]; rfl

theorem wf_consByte (a : Nat) (b : Byte) (rest : Memory) (ha : a ≤ 0xFFF) (hr : ∀ c ∈ rest, a < c.1)
    (hw : Memory.wf rest = true) : Memory.wf (Memory.consByte a b rest) = true := by
  unfold Memory.consByte; split
  · exact hw
  · exact (wf_cons a b rest).mpr ⟨ha, ‹_›, hr, hw⟩

theorem mem_consByte {a : Nat} {b : Byte} {rest : Memory} {c : Host.Cell}
    (h : c ∈ Memory.consByte a b rest) : c.1 = a ∨ c ∈ rest := by
  unfold Memory.consByte at h; split at h
  · exact .inr h
  · rcases List.mem_cons.mp h with rfl | h
    · exact .inl rfl
    · exact .inr h

theorem mem_insert {m : Memory} {a : Nat} {b : Byte} {c : Host.Cell} (h : c ∈ Memory.insert m a b) :
    c.1 = a ∨ c ∈ m := by
  induction m with
  | nil => exact mem_consByte h
  | cons d rest ih =>
    obtain ⟨k, e⟩ := d
    simp only [Memory.insert] at h
    split at h
    · exact mem_consByte h
    · split at h
      · rcases mem_consByte h with h | h
        · exact .inl h
        · exact .inr (by simp [h])
      · rcases List.mem_cons.mp h with rfl | h
        · exact .inr (by simp)
        · exact (ih h).imp id (by simp +contextual)

theorem insert_spec (m : Memory) (a : Nat) (b : Byte) (ha : a ≤ 0xFFF) (hw : m.wf = true) :
    (∀ k, (Memory.insert m a b).read k = if k = a then b else m.read k) ∧ (Memory.insert m a b).wf = true := by
  induction m with
  | nil => exact ⟨fun k => read_consByte a k b [] rfl, wf_consByte a b [] ha (by simp) rfl⟩
  | cons d rest ih =>
    obtain ⟨k, e⟩ := d
    obtain ⟨hk, he, hr, hwr⟩ := (wf_cons k e rest).mp hw
    simp only [Memory.insert]
    split
    · have hlt : ∀ c ∈ (k, e) :: rest, a < c.1 := by
        intro c hc; rcases List.mem_cons.mp hc with rfl | hc
        · assumption
        · have := hr c hc; omega
      exact ⟨fun j => read_consByte a j b _ (read_of_all_gt _ a hlt), wf_consByte a b _ ha hlt hw⟩
    · split
      · subst_vars
        refine ⟨fun j => ?_, wf_consByte _ b _ hk hr hwr⟩
        rw [read_consByte _ j b rest (read_of_all_gt _ _ hr)]
        by_cases hj : j = k
        · simp [hj]
        · simp [hj, Memory.read, Ne.symm hj]
      · obtain ⟨ihr, ihw⟩ := ih hwr
        refine ⟨fun j => ?_, (wf_cons _ _ _).mpr ⟨hk, he, ?_, ihw⟩⟩
        · simp only [Memory.read, ihr]
          by_cases hj : j = a
          · have : k ≠ a := by omega
            simp [hj, this]
          · simp [hj]
        · intro c hc
          rcases mem_insert hc with hc | hc
          · omega
          · exact hr c hc

/-! ### MemWrite (R11, R44) -/

/-- A write above 0xFFF does not take place (R42). -/
theorem write_above (m : Memory) (a : Nat) (b : Byte) (h : 0xFFF < a) : m.write a b = m := by
  unfold Memory.write Config.memTop; simp; omega

theorem read_write (m : Memory) (a k : Nat) (b : Byte) (hw : m.wf = true) (ha : a ≤ 0xFFF) :
    (m.write a b).read k = if k = a then b else m.read k := by
  have : Memory.write m a b = Memory.insert m a b := by simp [Memory.write, Config.memTop, ha]
  rw [this]; exact (insert_spec m a b ha hw).1 k

theorem wf_write (m : Memory) (a : Nat) (b : Byte) (hw : m.wf = true) : (m.write a b).wf = true := by
  by_cases ha : a ≤ 0xFFF
  · have : Memory.write m a b = Memory.insert m a b := by simp [Memory.write, Config.memTop, ha]
    rw [this]; exact (insert_spec m a b ha hw).2
  · rw [write_above m a b (by omega)]; exact hw

theorem wf_writeBytes (bs : List Byte) (m : Memory) (a : Nat) (hw : m.wf = true) :
    (m.writeBytes a bs).wf = true := by
  induction bs generalizing m a with
  | nil => exact hw
  | cons b bs ih => exact ih _ _ (wf_write m a b hw)

/-- A byte outside the written range reads as before. -/
theorem read_writeBytes_of_not (bs : List Byte) (m : Memory) (a k : Nat) (hw : m.wf = true)
    (h : ¬ (a ≤ k ∧ k < a + bs.length)) : (m.writeBytes a bs).read k = m.read k := by
  induction bs generalizing m a with
  | nil => rfl
  | cons b bs ih =>
    simp only [List.length_cons] at h
    rw [Memory.writeBytes, ih _ _ (wf_write m a b hw) (by omega)]
    by_cases ha : a ≤ 0xFFF
    · rw [read_write m a k b hw ha, if_neg (by omega)]
    · rw [write_above m a b (by omega)]

/-- Byte j of the written list stands at a + j. -/
theorem read_writeBytes (bs : List Byte) (m : Memory) (a j : Nat) (hw : m.wf = true) (hj : j < bs.length)
    (hb : a + j ≤ 0xFFF) : (m.writeBytes a bs).read (a + j) = bs[j] := by
  induction bs generalizing m a j with
  | nil => simp at hj
  | cons b bs ih =>
    rw [Memory.writeBytes]
    cases j with
    | zero =>
      rw [read_writeBytes_of_not _ _ _ _ (wf_write m a b hw) (by omega),
        read_write m a _ b hw (by omega)]
      simp
    | succ j =>
      have := ih (m.write a b) (a + 1) j (wf_write m a b hw) (by simpa using hj) (by omega)
      rw [show a + (j + 1) = a + 1 + j by omega, this]; rfl

/-- Nothing above 0xFFF is ever written. -/
theorem read_writeBytes_above (bs : List Byte) (m : Memory) (a k : Nat) (hw : m.wf = true) (hk : 0xFFF < k) :
    (m.writeBytes a bs).read k = m.read k := by
  induction bs generalizing m a with
  | nil => rfl
  | cons b bs ih =>
    rw [Memory.writeBytes, ih _ _ (wf_write m a b hw)]
    by_cases ha : a ≤ 0xFFF
    · rw [read_write m a k b hw ha, if_neg (by omega)]
    · rw [write_above m a b (by omega)]

/-! ### The load port (R151) -/

theorem wf_loadPort (m : Memory) (addr : BitVec 12) (b : Byte) (hw : m.wf = true) :
    (m.loadPort addr b).wf = true := by
  unfold Memory.loadPort; split
  · exact hw
  · exact wf_write _ _ _ hw

theorem wf_loadAll (rom : List (BitVec 12 × Byte)) (m : Memory) (hw : m.wf = true) :
    (m.loadAll rom).wf = true := by
  induction rom generalizing m with
  | nil => exact hw
  | cons c rest ih => exact ih _ (wf_loadPort m c.1 c.2 hw)

/-- Load-port writes at rising addresses from 0x200 + k, none above 0xFFF, are plain writes. -/
theorem loadAll_rising (bs : List Byte) (k : Nat) (m : Memory) (hw : m.wf = true) (hk : k + bs.length ≤ 0xE00) :
    m.loadAll (bs.mapIdx fun i b => (BitVec.ofNat 12 (0x200 + (k + i)), b)) = m.writeBytes (0x200 + k) bs := by
  induction bs generalizing k m with
  | nil => rfl
  | cons b bs ih =>
    simp only [List.mapIdx_cons, List.length_cons] at *
    have e : m.loadPort (BitVec.ofNat 12 (0x200 + (k + 0))) b = m.write (0x200 + k) b := by
      have : (BitVec.ofNat 12 (0x200 + (k + 0))).toNat = 0x200 + k := by simp; omega
      unfold Memory.loadPort
      rw [this, if_neg (by simp [Config.progStart])]
    simp only [Memory.loadAll, Memory.writeBytes, e]
    rw [show 0x200 + k + 1 = 0x200 + (k + 1) by omega, ← ih (k + 1) (m.write (0x200 + k) b) (wf_write _ _ _ hw) (by omega)]
    congr 2
    funext i b; rw [show k + 1 + i = k + (i + 1) by omega]

/-- A ROM load, all it does: byte i of the ROM at 0x200 + i. -/
theorem loadAll_romWrites (rom : Rom) (m : Memory) (hw : m.wf = true) :
    m.loadAll (romWrites rom) = m.writeBytes 0x200 rom.val := by
  have hl : rom.val.length ≤ 0xE00 := rom.property
  simpa [romWrites, Config.progStart] using loadAll_rising rom.val 0 m hw (by omega)

end Sys2Proof.Machine
end

