-- ==== Sys2Proof/Laws/State.lean ====
section
/-! SUPPORT. What each named update of the state does to each field: one lemma per field. -/

namespace Sys2Proof.Machine

/-! ### State.setReg -/

@[simp] theorem setReg_index (s : State) (r : Reg) (b : Byte) : (s.setReg r b).index = s.index := rfl
@[simp] theorem setReg_pc (s : State) (r : Reg) (b : Byte) : (s.setReg r b).pc = s.pc := rfl
@[simp] theorem setReg_stack (s : State) (r : Reg) (b : Byte) : (s.setReg r b).stack = s.stack := rfl
@[simp] theorem setReg_sp (s : State) (r : Reg) (b : Byte) : (s.setReg r b).sp = s.sp := rfl
@[simp] theorem setReg_dt (s : State) (r : Reg) (b : Byte) : (s.setReg r b).dt = s.dt := rfl
@[simp] theorem setReg_st (s : State) (r : Reg) (b : Byte) : (s.setReg r b).st = s.st := rfl
@[simp] theorem setReg_keys (s : State) (r : Reg) (b : Byte) : (s.setReg r b).keys = s.keys := rfl
@[simp] theorem setReg_awaitKey (s : State) (r : Reg) (b : Byte) : (s.setReg r b).awaitKey = s.awaitKey := rfl
@[simp] theorem setReg_fb (s : State) (r : Reg) (b : Byte) : (s.setReg r b).fb = s.fb := rfl
@[simp] theorem setReg_redraw (s : State) (r : Reg) (b : Byte) : (s.setReg r b).redraw = s.redraw := rfl
@[simp] theorem setReg_halt (s : State) (r : Reg) (b : Byte) : (s.setReg r b).halt = s.halt := rfl
@[simp] theorem setReg_fault (s : State) (r : Reg) (b : Byte) : (s.setReg r b).fault = s.fault := rfl
@[simp] theorem setReg_mem (s : State) (r : Reg) (b : Byte) : (s.setReg r b).mem = s.mem := rfl
@[simp] theorem setReg_diag (s : State) (r : Reg) (b : Byte) : (s.setReg r b).diag = s.diag := rfl
@[simp] theorem setReg_rnd (s : State) (r : Reg) (b : Byte) : (s.setReg r b).rnd = s.rnd := rfl
@[simp] theorem setReg_hostMoves (s : State) (r : Reg) (b : Byte) : (s.setReg r b).hostMoves = s.hostMoves := rfl
@[simp] theorem setReg_draws (s : State) (r : Reg) (b : Byte) : (s.setReg r b).draws = s.draws := rfl

/-! ### State.setFlag -/

@[simp] theorem setFlag_index (s : State) (f : Bool) : (s.setFlag f).index = s.index := rfl
@[simp] theorem setFlag_pc (s : State) (f : Bool) : (s.setFlag f).pc = s.pc := rfl
@[simp] theorem setFlag_stack (s : State) (f : Bool) : (s.setFlag f).stack = s.stack := rfl
@[simp] theorem setFlag_sp (s : State) (f : Bool) : (s.setFlag f).sp = s.sp := rfl
@[simp] theorem setFlag_dt (s : State) (f : Bool) : (s.setFlag f).dt = s.dt := rfl
@[simp] theorem setFlag_st (s : State) (f : Bool) : (s.setFlag f).st = s.st := rfl
@[simp] theorem setFlag_keys (s : State) (f : Bool) : (s.setFlag f).keys = s.keys := rfl
@[simp] theorem setFlag_awaitKey (s : State) (f : Bool) : (s.setFlag f).awaitKey = s.awaitKey := rfl
@[simp] theorem setFlag_fb (s : State) (f : Bool) : (s.setFlag f).fb = s.fb := rfl
@[simp] theorem setFlag_redraw (s : State) (f : Bool) : (s.setFlag f).redraw = s.redraw := rfl
@[simp] theorem setFlag_halt (s : State) (f : Bool) : (s.setFlag f).halt = s.halt := rfl
@[simp] theorem setFlag_fault (s : State) (f : Bool) : (s.setFlag f).fault = s.fault := rfl
@[simp] theorem setFlag_mem (s : State) (f : Bool) : (s.setFlag f).mem = s.mem := rfl
@[simp] theorem setFlag_diag (s : State) (f : Bool) : (s.setFlag f).diag = s.diag := rfl
@[simp] theorem setFlag_rnd (s : State) (f : Bool) : (s.setFlag f).rnd = s.rnd := rfl
@[simp] theorem setFlag_hostMoves (s : State) (f : Bool) : (s.setFlag f).hostMoves = s.hostMoves := rfl
@[simp] theorem setFlag_draws (s : State) (f : Bool) : (s.setFlag f).draws = s.draws := rfl

/-! ### State.setRegThenFlag -/

@[simp] theorem setRegThenFlag_index (s : State) (r : Reg) (b : Byte) (f : Bool) : (s.setRegThenFlag r b f).index = s.index := rfl
@[simp] theorem setRegThenFlag_pc (s : State) (r : Reg) (b : Byte) (f : Bool) : (s.setRegThenFlag r b f).pc = s.pc := rfl
@[simp] theorem setRegThenFlag_stack (s : State) (r : Reg) (b : Byte) (f : Bool) : (s.setRegThenFlag r b f).stack = s.stack := rfl
@[simp] theorem setRegThenFlag_sp (s : State) (r : Reg) (b : Byte) (f : Bool) : (s.setRegThenFlag r b f).sp = s.sp := rfl
@[simp] theorem setRegThenFlag_dt (s : State) (r : Reg) (b : Byte) (f : Bool) : (s.setRegThenFlag r b f).dt = s.dt := rfl
@[simp] theorem setRegThenFlag_st (s : State) (r : Reg) (b : Byte) (f : Bool) : (s.setRegThenFlag r b f).st = s.st := rfl
@[simp] theorem setRegThenFlag_keys (s : State) (r : Reg) (b : Byte) (f : Bool) : (s.setRegThenFlag r b f).keys = s.keys := rfl
@[simp] theorem setRegThenFlag_awaitKey (s : State) (r : Reg) (b : Byte) (f : Bool) : (s.setRegThenFlag r b f).awaitKey = s.awaitKey := rfl
@[simp] theorem setRegThenFlag_fb (s : State) (r : Reg) (b : Byte) (f : Bool) : (s.setRegThenFlag r b f).fb = s.fb := rfl
@[simp] theorem setRegThenFlag_redraw (s : State) (r : Reg) (b : Byte) (f : Bool) : (s.setRegThenFlag r b f).redraw = s.redraw := rfl
@[simp] theorem setRegThenFlag_halt (s : State) (r : Reg) (b : Byte) (f : Bool) : (s.setRegThenFlag r b f).halt = s.halt := rfl
@[simp] theorem setRegThenFlag_fault (s : State) (r : Reg) (b : Byte) (f : Bool) : (s.setRegThenFlag r b f).fault = s.fault := rfl
@[simp] theorem setRegThenFlag_mem (s : State) (r : Reg) (b : Byte) (f : Bool) : (s.setRegThenFlag r b f).mem = s.mem := rfl
@[simp] theorem setRegThenFlag_diag (s : State) (r : Reg) (b : Byte) (f : Bool) : (s.setRegThenFlag r b f).diag = s.diag := rfl
@[simp] theorem setRegThenFlag_rnd (s : State) (r : Reg) (b : Byte) (f : Bool) : (s.setRegThenFlag r b f).rnd = s.rnd := rfl
@[simp] theorem setRegThenFlag_hostMoves (s : State) (r : Reg) (b : Byte) (f : Bool) : (s.setRegThenFlag r b f).hostMoves = s.hostMoves := rfl
@[simp] theorem setRegThenFlag_draws (s : State) (r : Reg) (b : Byte) (f : Bool) : (s.setRegThenFlag r b f).draws = s.draws := rfl

/-! ### State.loadRegsThrough -/

@[simp] theorem loadRegsThrough_index (s : State) (x : Reg) (a : Nat) : (s.loadRegsThrough x a).index = s.index := rfl
@[simp] theorem loadRegsThrough_pc (s : State) (x : Reg) (a : Nat) : (s.loadRegsThrough x a).pc = s.pc := rfl
@[simp] theorem loadRegsThrough_stack (s : State) (x : Reg) (a : Nat) : (s.loadRegsThrough x a).stack = s.stack := rfl
@[simp] theorem loadRegsThrough_sp (s : State) (x : Reg) (a : Nat) : (s.loadRegsThrough x a).sp = s.sp := rfl
@[simp] theorem loadRegsThrough_dt (s : State) (x : Reg) (a : Nat) : (s.loadRegsThrough x a).dt = s.dt := rfl
@[simp] theorem loadRegsThrough_st (s : State) (x : Reg) (a : Nat) : (s.loadRegsThrough x a).st = s.st := rfl
@[simp] theorem loadRegsThrough_keys (s : State) (x : Reg) (a : Nat) : (s.loadRegsThrough x a).keys = s.keys := rfl
@[simp] theorem loadRegsThrough_awaitKey (s : State) (x : Reg) (a : Nat) : (s.loadRegsThrough x a).awaitKey = s.awaitKey := rfl
@[simp] theorem loadRegsThrough_fb (s : State) (x : Reg) (a : Nat) : (s.loadRegsThrough x a).fb = s.fb := rfl
@[simp] theorem loadRegsThrough_redraw (s : State) (x : Reg) (a : Nat) : (s.loadRegsThrough x a).redraw = s.redraw := rfl
@[simp] theorem loadRegsThrough_halt (s : State) (x : Reg) (a : Nat) : (s.loadRegsThrough x a).halt = s.halt := rfl
@[simp] theorem loadRegsThrough_fault (s : State) (x : Reg) (a : Nat) : (s.loadRegsThrough x a).fault = s.fault := rfl
@[simp] theorem loadRegsThrough_mem (s : State) (x : Reg) (a : Nat) : (s.loadRegsThrough x a).mem = s.mem := rfl
@[simp] theorem loadRegsThrough_diag (s : State) (x : Reg) (a : Nat) : (s.loadRegsThrough x a).diag = s.diag := rfl
@[simp] theorem loadRegsThrough_rnd (s : State) (x : Reg) (a : Nat) : (s.loadRegsThrough x a).rnd = s.rnd := rfl
@[simp] theorem loadRegsThrough_hostMoves (s : State) (x : Reg) (a : Nat) : (s.loadRegsThrough x a).hostMoves = s.hostMoves := rfl
@[simp] theorem loadRegsThrough_draws (s : State) (x : Reg) (a : Nat) : (s.loadRegsThrough x a).draws = s.draws := rfl

/-! ### State.apply -/

@[simp] theorem apply_v (s : State) (d : Directive) : (s.apply d).v = s.v := by cases d <;> rfl
@[simp] theorem apply_index (s : State) (d : Directive) : (s.apply d).index = s.index := by cases d <;> rfl
@[simp] theorem apply_stack (s : State) (d : Directive) : (s.apply d).stack = s.stack := by cases d <;> rfl
@[simp] theorem apply_sp (s : State) (d : Directive) : (s.apply d).sp = s.sp := by cases d <;> rfl
@[simp] theorem apply_dt (s : State) (d : Directive) : (s.apply d).dt = s.dt := by cases d <;> rfl
@[simp] theorem apply_st (s : State) (d : Directive) : (s.apply d).st = s.st := by cases d <;> rfl
@[simp] theorem apply_keys (s : State) (d : Directive) : (s.apply d).keys = s.keys := by cases d <;> rfl
@[simp] theorem apply_awaitKey (s : State) (d : Directive) : (s.apply d).awaitKey = s.awaitKey := by cases d <;> rfl
@[simp] theorem apply_fb (s : State) (d : Directive) : (s.apply d).fb = s.fb := by cases d <;> rfl
@[simp] theorem apply_redraw (s : State) (d : Directive) : (s.apply d).redraw = s.redraw := by cases d <;> rfl
@[simp] theorem apply_halt (s : State) (d : Directive) : (s.apply d).halt = s.halt := by cases d <;> rfl
@[simp] theorem apply_fault (s : State) (d : Directive) : (s.apply d).fault = s.fault := by cases d <;> rfl
@[simp] theorem apply_mem (s : State) (d : Directive) : (s.apply d).mem = s.mem := by cases d <;> rfl
@[simp] theorem apply_diag (s : State) (d : Directive) : (s.apply d).diag = s.diag := by cases d <;> rfl
@[simp] theorem apply_rnd (s : State) (d : Directive) : (s.apply d).rnd = s.rnd := by cases d <;> rfl
@[simp] theorem apply_hostMoves (s : State) (d : Directive) : (s.apply d).hostMoves = s.hostMoves := by cases d <;> rfl
@[simp] theorem apply_draws (s : State) (d : Directive) : (s.apply d).draws = s.draws := by cases d <;> rfl

/-! ### State.tick -/

@[simp] theorem tick_v (s : State) : (s.tick).v = s.v := rfl
@[simp] theorem tick_index (s : State) : (s.tick).index = s.index := rfl
@[simp] theorem tick_pc (s : State) : (s.tick).pc = s.pc := rfl
@[simp] theorem tick_stack (s : State) : (s.tick).stack = s.stack := rfl
@[simp] theorem tick_sp (s : State) : (s.tick).sp = s.sp := rfl
@[simp] theorem tick_dt (s : State) : (s.tick).dt = countDown s.dt := rfl
@[simp] theorem tick_st (s : State) : (s.tick).st = countDown s.st := rfl
@[simp] theorem tick_keys (s : State) : (s.tick).keys = s.keys := rfl
@[simp] theorem tick_awaitKey (s : State) : (s.tick).awaitKey = s.awaitKey := rfl
@[simp] theorem tick_fb (s : State) : (s.tick).fb = s.fb := rfl
@[simp] theorem tick_redraw (s : State) : (s.tick).redraw = s.redraw := rfl
@[simp] theorem tick_halt (s : State) : (s.tick).halt = s.halt := rfl
@[simp] theorem tick_fault (s : State) : (s.tick).fault = s.fault := rfl
@[simp] theorem tick_mem (s : State) : (s.tick).mem = s.mem := rfl
@[simp] theorem tick_diag (s : State) : (s.tick).diag = s.diag := rfl
@[simp] theorem tick_rnd (s : State) : (s.tick).rnd = s.rnd := rfl
@[simp] theorem tick_hostMoves (s : State) : (s.tick).hostMoves = s.hostMoves := rfl
@[simp] theorem tick_draws (s : State) : (s.tick).draws = s.draws := rfl

/-! ### State.endCycle -/

@[simp] theorem endCycle_v (s : State) : (s.endCycle).v = s.v := by unfold State.endCycle; split <;> rfl
@[simp] theorem endCycle_index (s : State) : (s.endCycle).index = s.index := by unfold State.endCycle; split <;> rfl
@[simp] theorem endCycle_pc (s : State) : (s.endCycle).pc = s.pc := by unfold State.endCycle; split <;> rfl
@[simp] theorem endCycle_stack (s : State) : (s.endCycle).stack = s.stack := by unfold State.endCycle; split <;> rfl
@[simp] theorem endCycle_sp (s : State) : (s.endCycle).sp = s.sp := by unfold State.endCycle; split <;> rfl
@[simp] theorem endCycle_dt (s : State) : (s.endCycle).dt = if s.halt then s.dt else countDown s.dt := by unfold State.endCycle; split <;> rfl
@[simp] theorem endCycle_st (s : State) : (s.endCycle).st = if s.halt then s.st else countDown s.st := by unfold State.endCycle; split <;> rfl
@[simp] theorem endCycle_keys (s : State) : (s.endCycle).keys = s.keys := by unfold State.endCycle; split <;> rfl
@[simp] theorem endCycle_awaitKey (s : State) : (s.endCycle).awaitKey = s.awaitKey := by unfold State.endCycle; split <;> rfl
@[simp] theorem endCycle_fb (s : State) : (s.endCycle).fb = s.fb := by unfold State.endCycle; split <;> rfl
@[simp] theorem endCycle_redraw (s : State) : (s.endCycle).redraw = s.redraw := by unfold State.endCycle; split <;> rfl
@[simp] theorem endCycle_halt (s : State) : (s.endCycle).halt = s.halt := by unfold State.endCycle; split <;> rfl
@[simp] theorem endCycle_fault (s : State) : (s.endCycle).fault = s.fault := by unfold State.endCycle; split <;> rfl
@[simp] theorem endCycle_mem (s : State) : (s.endCycle).mem = s.mem := by unfold State.endCycle; split <;> rfl
@[simp] theorem endCycle_diag (s : State) : (s.endCycle).diag = s.diag := by unfold State.endCycle; split <;> rfl
@[simp] theorem endCycle_rnd (s : State) : (s.endCycle).rnd = s.rnd := by unfold State.endCycle; split <;> rfl
@[simp] theorem endCycle_hostMoves (s : State) : (s.endCycle).hostMoves = s.hostMoves := by unfold State.endCycle; split <;> rfl
@[simp] theorem endCycle_draws (s : State) : (s.endCycle).draws = s.draws := by unfold State.endCycle; split <;> rfl

/-! ### State.report -/

@[simp] theorem report_v (s : State) (r : Report) : (s.report r).v = s.v := rfl
@[simp] theorem report_index (s : State) (r : Report) : (s.report r).index = s.index := rfl
@[simp] theorem report_pc (s : State) (r : Report) : (s.report r).pc = s.pc := rfl
@[simp] theorem report_stack (s : State) (r : Report) : (s.report r).stack = s.stack := rfl
@[simp] theorem report_sp (s : State) (r : Report) : (s.report r).sp = s.sp := rfl
@[simp] theorem report_dt (s : State) (r : Report) : (s.report r).dt = s.dt := rfl
@[simp] theorem report_st (s : State) (r : Report) : (s.report r).st = s.st := rfl
@[simp] theorem report_keys (s : State) (r : Report) : (s.report r).keys = s.keys := rfl
@[simp] theorem report_awaitKey (s : State) (r : Report) : (s.report r).awaitKey = s.awaitKey := rfl
@[simp] theorem report_fb (s : State) (r : Report) : (s.report r).fb = s.fb := rfl
@[simp] theorem report_redraw (s : State) (r : Report) : (s.report r).redraw = s.redraw := rfl
@[simp] theorem report_halt (s : State) (r : Report) : (s.report r).halt = s.halt := rfl
@[simp] theorem report_fault (s : State) (r : Report) : (s.report r).fault = s.fault := rfl
@[simp] theorem report_mem (s : State) (r : Report) : (s.report r).mem = s.mem := rfl
@[simp] theorem report_diag (s : State) (r : Report) : (s.report r).diag = some r := rfl
@[simp] theorem report_rnd (s : State) (r : Report) : (s.report r).rnd = s.rnd := rfl
@[simp] theorem report_hostMoves (s : State) (r : Report) : (s.report r).hostMoves = s.hostMoves := rfl
@[simp] theorem report_draws (s : State) (r : Report) : (s.report r).draws = s.draws := rfl

/-! ### State.raise -/

@[simp] theorem raise_v (s : State) (f : FaultRecord) : (s.raise f).v = s.v := rfl
@[simp] theorem raise_index (s : State) (f : FaultRecord) : (s.raise f).index = s.index := rfl
@[simp] theorem raise_pc (s : State) (f : FaultRecord) : (s.raise f).pc = s.pc := rfl
@[simp] theorem raise_stack (s : State) (f : FaultRecord) : (s.raise f).stack = s.stack := rfl
@[simp] theorem raise_sp (s : State) (f : FaultRecord) : (s.raise f).sp = s.sp := rfl
@[simp] theorem raise_dt (s : State) (f : FaultRecord) : (s.raise f).dt = s.dt := rfl
@[simp] theorem raise_st (s : State) (f : FaultRecord) : (s.raise f).st = s.st := rfl
@[simp] theorem raise_keys (s : State) (f : FaultRecord) : (s.raise f).keys = s.keys := rfl
@[simp] theorem raise_awaitKey (s : State) (f : FaultRecord) : (s.raise f).awaitKey = s.awaitKey := rfl
@[simp] theorem raise_fb (s : State) (f : FaultRecord) : (s.raise f).fb = s.fb := rfl
@[simp] theorem raise_redraw (s : State) (f : FaultRecord) : (s.raise f).redraw = s.redraw := rfl
@[simp] theorem raise_halt (s : State) (f : FaultRecord) : (s.raise f).halt = true := rfl
@[simp] theorem raise_fault (s : State) (f : FaultRecord) : (s.raise f).fault = f := rfl
@[simp] theorem raise_mem (s : State) (f : FaultRecord) : (s.raise f).mem = s.mem := rfl
@[simp] theorem raise_diag (s : State) (f : FaultRecord) : (s.raise f).diag = s.diag := rfl
@[simp] theorem raise_rnd (s : State) (f : FaultRecord) : (s.raise f).rnd = s.rnd := rfl
@[simp] theorem raise_hostMoves (s : State) (f : FaultRecord) : (s.raise f).hostMoves = s.hostMoves := rfl
@[simp] theorem raise_draws (s : State) (f : FaultRecord) : (s.raise f).draws = s.draws := rfl

/-! ### State.acknowledge -/

@[simp] theorem acknowledge_v (s : State) (a : Bool) : (s.acknowledge a).v = s.v := by cases a <;> rfl
@[simp] theorem acknowledge_index (s : State) (a : Bool) : (s.acknowledge a).index = s.index := by cases a <;> rfl
@[simp] theorem acknowledge_pc (s : State) (a : Bool) : (s.acknowledge a).pc = s.pc := by cases a <;> rfl
@[simp] theorem acknowledge_stack (s : State) (a : Bool) : (s.acknowledge a).stack = s.stack := by cases a <;> rfl
@[simp] theorem acknowledge_sp (s : State) (a : Bool) : (s.acknowledge a).sp = s.sp := by cases a <;> rfl
@[simp] theorem acknowledge_dt (s : State) (a : Bool) : (s.acknowledge a).dt = s.dt := by cases a <;> rfl
@[simp] theorem acknowledge_st (s : State) (a : Bool) : (s.acknowledge a).st = s.st := by cases a <;> rfl
@[simp] theorem acknowledge_keys (s : State) (a : Bool) : (s.acknowledge a).keys = s.keys := by cases a <;> rfl
@[simp] theorem acknowledge_awaitKey (s : State) (a : Bool) : (s.acknowledge a).awaitKey = s.awaitKey := by cases a <;> rfl
@[simp] theorem acknowledge_fb (s : State) (a : Bool) : (s.acknowledge a).fb = s.fb := by cases a <;> rfl
@[simp] theorem acknowledge_redraw (s : State) (a : Bool) : (s.acknowledge a).redraw = (s.redraw && !a) := by cases a <;> simp [State.acknowledge]
@[simp] theorem acknowledge_halt (s : State) (a : Bool) : (s.acknowledge a).halt = s.halt := by cases a <;> rfl
@[simp] theorem acknowledge_fault (s : State) (a : Bool) : (s.acknowledge a).fault = s.fault := by cases a <;> rfl
@[simp] theorem acknowledge_mem (s : State) (a : Bool) : (s.acknowledge a).mem = s.mem := by cases a <;> rfl
@[simp] theorem acknowledge_diag (s : State) (a : Bool) : (s.acknowledge a).diag = s.diag := by cases a <;> rfl
@[simp] theorem acknowledge_rnd (s : State) (a : Bool) : (s.acknowledge a).rnd = s.rnd := by cases a <;> rfl
@[simp] theorem acknowledge_hostMoves (s : State) (a : Bool) : (s.acknowledge a).hostMoves = s.hostMoves := by cases a <;> rfl
@[simp] theorem acknowledge_draws (s : State) (a : Bool) : (s.acknowledge a).draws = s.draws := by cases a <;> rfl

/-! ### State.latchPorts -/

@[simp] theorem latchPorts_v (s : State) (p : CyclePorts) : (s.latchPorts p).v = s.v := rfl
@[simp] theorem latchPorts_index (s : State) (p : CyclePorts) : (s.latchPorts p).index = s.index := rfl
@[simp] theorem latchPorts_pc (s : State) (p : CyclePorts) : (s.latchPorts p).pc = s.pc := rfl
@[simp] theorem latchPorts_stack (s : State) (p : CyclePorts) : (s.latchPorts p).stack = s.stack := rfl
@[simp] theorem latchPorts_sp (s : State) (p : CyclePorts) : (s.latchPorts p).sp = s.sp := rfl
@[simp] theorem latchPorts_dt (s : State) (p : CyclePorts) : (s.latchPorts p).dt = s.dt := rfl
@[simp] theorem latchPorts_st (s : State) (p : CyclePorts) : (s.latchPorts p).st = s.st := rfl
@[simp] theorem latchPorts_keys (s : State) (p : CyclePorts) : (s.latchPorts p).keys = p.keys.getD s.keys := rfl
@[simp] theorem latchPorts_awaitKey (s : State) (p : CyclePorts) : (s.latchPorts p).awaitKey = s.awaitKey := rfl
@[simp] theorem latchPorts_fb (s : State) (p : CyclePorts) : (s.latchPorts p).fb = s.fb := rfl
@[simp] theorem latchPorts_redraw (s : State) (p : CyclePorts) : (s.latchPorts p).redraw = s.redraw := rfl
@[simp] theorem latchPorts_halt (s : State) (p : CyclePorts) : (s.latchPorts p).halt = s.halt := rfl
@[simp] theorem latchPorts_fault (s : State) (p : CyclePorts) : (s.latchPorts p).fault = s.fault := rfl
@[simp] theorem latchPorts_mem (s : State) (p : CyclePorts) : (s.latchPorts p).mem = s.mem := rfl
@[simp] theorem latchPorts_diag (s : State) (p : CyclePorts) : (s.latchPorts p).diag = none := rfl
@[simp] theorem latchPorts_rnd (s : State) (p : CyclePorts) : (s.latchPorts p).rnd = p.rnd := rfl
@[simp] theorem latchPorts_hostMoves (s : State) (p : CyclePorts) : (s.latchPorts p).hostMoves = s.hostMoves := rfl
@[simp] theorem latchPorts_draws (s : State) (p : CyclePorts) : (s.latchPorts p).draws = s.draws := rfl

/-! ### State.resolve -/

@[simp] theorem resolve_index (s : State) (r : Reg) (k : BitVec 4) : (s.resolve r k).index = s.index := rfl
@[simp] theorem resolve_pc (s : State) (r : Reg) (k : BitVec 4) : (s.resolve r k).pc = adv s.pc 2 := rfl
@[simp] theorem resolve_stack (s : State) (r : Reg) (k : BitVec 4) : (s.resolve r k).stack = s.stack := rfl
@[simp] theorem resolve_sp (s : State) (r : Reg) (k : BitVec 4) : (s.resolve r k).sp = s.sp := rfl
@[simp] theorem resolve_dt (s : State) (r : Reg) (k : BitVec 4) : (s.resolve r k).dt = s.dt := rfl
@[simp] theorem resolve_st (s : State) (r : Reg) (k : BitVec 4) : (s.resolve r k).st = s.st := rfl
@[simp] theorem resolve_keys (s : State) (r : Reg) (k : BitVec 4) : (s.resolve r k).keys = s.keys := rfl
@[simp] theorem resolve_awaitKey (s : State) (r : Reg) (k : BitVec 4) : (s.resolve r k).awaitKey = none := rfl
@[simp] theorem resolve_fb (s : State) (r : Reg) (k : BitVec 4) : (s.resolve r k).fb = s.fb := rfl
@[simp] theorem resolve_redraw (s : State) (r : Reg) (k : BitVec 4) : (s.resolve r k).redraw = s.redraw := rfl
@[simp] theorem resolve_halt (s : State) (r : Reg) (k : BitVec 4) : (s.resolve r k).halt = s.halt := rfl
@[simp] theorem resolve_fault (s : State) (r : Reg) (k : BitVec 4) : (s.resolve r k).fault = s.fault := rfl
@[simp] theorem resolve_mem (s : State) (r : Reg) (k : BitVec 4) : (s.resolve r k).mem = s.mem := rfl
@[simp] theorem resolve_diag (s : State) (r : Reg) (k : BitVec 4) : (s.resolve r k).diag = s.diag := rfl
@[simp] theorem resolve_rnd (s : State) (r : Reg) (k : BitVec 4) : (s.resolve r k).rnd = s.rnd := rfl
@[simp] theorem resolve_hostMoves (s : State) (r : Reg) (k : BitVec 4) : (s.resolve r k).hostMoves = s.hostMoves := rfl
@[simp] theorem resolve_draws (s : State) (r : Reg) (k : BitVec 4) : (s.resolve r k).draws = s.draws := rfl

/-! ### The PC a directive leaves (R76) -/

@[simp] theorem apply_advance_pc (s : State) : (s.apply .advance).pc = adv s.pc 2 := rfl
@[simp] theorem apply_skipNext_pc (s : State) : (s.apply .skipNext).pc = adv s.pc 4 := rfl
@[simp] theorem apply_jumpTo_pc (s : State) (a : Word) : (s.apply (.jumpTo a)).pc = a := rfl
@[simp] theorem apply_skipIf_pc (s : State) (c : Bool) :
    (s.apply (skipIf c)).pc = adv s.pc (if c then 4 else 2) := by cases c <;> rfl

/-! ### Registers (R16, R17) -/

theorem reg_setReg (s : State) (r q : Reg) (b : Byte) : (s.setReg r b).reg q = if q = r then b else s.reg q := by
  unfold State.reg State.setReg
  rw [Vector.getElem_set]
  by_cases h : q = r
  · simp [h]
  · have : r.toNat ≠ q.toNat := fun e => h (BitVec.eq_of_toNat_eq e.symm)
    simp [h, this]

@[simp] theorem reg_setReg_self (s : State) (r : Reg) (b : Byte) : (s.setReg r b).reg r = b := by simp [reg_setReg]

@[simp] theorem reg_apply (s : State) (d : Directive) (q : Reg) : (s.apply d).reg q = s.reg q := by
  unfold State.reg; simp

@[simp] theorem readByte_apply (s : State) (d : Directive) (a : Nat) : (s.apply d).readByte a = s.readByte a := by
  unfold State.readByte; simp

@[simp] theorem readByte_setReg (s : State) (r : Reg) (b : Byte) (a : Nat) :
    (s.setReg r b).readByte a = s.readByte a := rfl

@[simp] theorem cell_apply (s : State) (d : Directive) (x : Fin 64) (y : Fin 32) :
    (s.apply d).cell x y = s.cell x y := by unfold State.cell; simp

@[simp] theorem cell_setReg (s : State) (r : Reg) (b : Byte) (x : Fin 64) (y : Fin 32) :
    (s.setReg r b).cell x y = s.cell x y := rfl

/-- VF after a flag write; every other register stays (R17). -/
theorem reg_setFlag (s : State) (f : Bool) (q : Reg) :
    (s.setFlag f).reg q = if q = regF then (if f then 1#8 else 0#8) else s.reg q := by
  unfold State.setFlag; exact reg_setReg ..

/-- A result and then the flag: the flag wins in VF (D5). -/
theorem reg_setRegThenFlag (s : State) (r q : Reg) (b : Byte) (f : Bool) :
    (s.setRegThenFlag r b f).reg q =
      if q = regF then (if f then 1#8 else 0#8) else if q = r then b else s.reg q := by
  unfold State.setRegThenFlag; rw [reg_setFlag, reg_setReg]

/-- Registers through x come from memory, the others stay (R123). -/
theorem reg_loadRegsThrough (s : State) (x q : Reg) (a : Nat) :
    (s.loadRegsThrough x a).reg q = if q.toNat ≤ x.toNat then s.readByte (a + q.toNat) else s.reg q := by
  unfold State.reg State.loadRegsThrough State.readByte
  rw [Vector.getElem_ofFn]; rfl

/-- The sum that R80 subtracts: one less, floor at zero. -/
@[simp] theorem countDown_toNat (t : Byte) : (countDown t).toNat = t.toNat - 1 := by
  unfold countDown; split
  · simp; omega
  · omega

/-- The increment never leaves memory (R20, R77). -/
theorem adv_le (p : Word) (k : Nat) : (adv p k).toNat ≤ 0xFFF := by
  unfold adv Config.memTop Config.progStart; split
  · decide
  · simp; omega

/-- Two states with the same registers, by name, are the same in `v`. -/
theorem v_ext (v w : Vector Byte 16) (h : ∀ r : Reg, v[r.toNat]'r.isLt = w[r.toNat]'r.isLt) : v = w := by
  apply Vector.ext; intro k hk
  simpa [Nat.mod_eq_of_lt hk] using h (BitVec.ofNat 4 k)

end Sys2Proof.Machine
end

