-- ==== Sys2Proof/Laws/Exec.lean ====
section
/-! SUPPORT. What an executed instruction can do, said once: it raises a fault and nothing else, or it is one of the
plain effects below; and the conditions of the two faults. -/

namespace Sys2Proof.Machine

/-! ### The I-based ranges (R42) and the key operand (R104) -/

theorem rangeFault_none {base : Word} {m : Nat} : rangeFault base m = none ↔ base.toNat + m ≤ 0xFFF := by
  unfold rangeFault Config.memTop
  split
  · simp; omega
  · simp; omega

/-- MemoryBounds with the lowest address above 0xFFF. -/
theorem rangeFault_some {base : Word} {m : Nat} (h : 0xFFF < base.toNat + m) :
    rangeFault base m = some (.memoryBounds (if 0xFFF < base.toNat then base else 0x1000#16)) := by
  unfold rangeFault Config.memTop
  rw [if_pos h]

theorem spriteFault_none {base : Word} {n : Nat} :
    spriteFault base n = none ↔ n = 0 ∨ base.toNat + (n - 1) ≤ 0xFFF := by
  unfold spriteFault
  split
  · simp [*]
  · rw [rangeFault_none]; simp [*]

theorem spriteFault_some {base : Word} {n : Nat} (h0 : 0 < n) (h : 0xFFF < base.toNat + (n - 1)) :
    spriteFault base n = some (.memoryBounds (if 0xFFF < base.toNat then base else 0x1000#16)) := by
  unfold spriteFault
  rw [if_neg (by omega), rangeFault_some h]

theorem keyOperand_ok {b : Byte} (h : b.toNat ≤ 0xF) : keyOperand b = .ok (b.setWidth 4) := by
  unfold keyOperand; rw [if_neg (by omega)]

theorem keyOperand_error {b : Byte} (h : 0xF < b.toNat) : keyOperand b = .error (.keyIndex (b.setWidth 16)) := by
  unfold keyOperand; rw [if_pos h]

/-- KEYS at the key a legal operand names. -/
theorem keyDown_setWidth (s : State) (b : Byte) (h : b.toNat ≤ 0xF) :
    s.keyDown (b.setWidth 4) = s.keys.toNat.testBit b.toNat := by
  unfold State.keyDown
  rw [BitVec.toNat_setWidth, Nat.mod_eq_of_lt (by omega)]; rfl

/-! ### Guarded effects -/

theorem guarded_none (s t : State) : s.guarded none t = .next t := rfl

theorem guarded_some (s t : State) (f : FaultRecord) : s.guarded (some f) t = .next (s.raise f) := rfl

/-- Every instruction answers a next state. -/
theorem exec_next (i : Instr) (s : State) : ∃ t, exec i s = .next t := by
  have hg : ∀ f t, ∃ u, s.guarded f t = .next u := fun f t => by cases f <;> exact ⟨_, rfl⟩
  have hk : ∀ x c, ∃ u, s.keySkip x c = .next u := fun x c => by
    unfold State.keySkip; split <;> exact ⟨_, rfl⟩
  cases i
  case ret => simp only [exec, execRet]; split <;> exact ⟨_, rfl⟩
  case callSub => simp only [exec, execCallSub]; split <;> exact ⟨_, rfl⟩
  case skipIfKeyDown x => exact hk x fun down => down
  case skipIfKeyUp x => exact hk x fun down => !down
  case storeBcd x => exact hg _ _
  case dumpRegisters x => exact hg _ _
  case loadRegisters x => exact hg _ _
  case drawSprite x y n => exact hg _ _
  all_goals exact ⟨_, rfl⟩

/-! ### What every instruction that raises nothing leaves alone -/

/-- The effect of an instruction that raises no fault, as far as every such instruction has it in common. -/
structure Plain (i : Instr) (s t : State) : Prop where
  halt : t.halt = s.halt
  fault : t.fault = s.fault
  keys : t.keys = s.keys
  rnd : t.rnd = s.rnd
  hostMoves : t.hostMoves = s.hostMoves
  draws : t.draws = s.draws
  redraw : s.redraw = true → t.redraw = true
  redraw_only : t.redraw = s.redraw ∨ (t.redraw = true ∧ (i = .clearScreen ∨ ∃ x y n, i = .drawSprite x y n))
  redraw_set : (i = .clearScreen ∨ ∃ x y n, i = .drawSprite x y n) → t.redraw = true
  mem : t.mem = s.mem ∨ ∃ bs, t.mem = s.mem.writeBytes s.index.toNat bs ∧
    ((∃ x, i = .storeBcd x ∧ bs.length = 3) ∨ (∃ x, i = .dumpRegisters x ∧ bs.length ≤ x.toNat + 1))
  stack : t.stack = s.stack ∨
    ((∃ addr, i = .callSub addr) ∧ ∃ k, ∃ h : k < 16, t.stack = s.stack.set k (adv s.pc 2) h)
  diag : t.diag = s.diag ∨
    (∃ addr, i = .callSub addr ∧ s.sp.val = 16 ∧ t.diag = some (.stackOverflow s.pc)) ∨
    (i = .ret ∧ s.sp.val = 0 ∧ t.diag = some (.stackUnderflow s.pc))
  dt : (∀ x, i ≠ .setDelayTimer x) → t.dt = s.dt
  dt_set : ∀ x, i = .setDelayTimer x → t.dt = s.reg x
  st : (∀ x, i ≠ .setSoundTimer x) → t.st = s.st
  st_set : ∀ x, i = .setSoundTimer x → t.st = s.reg x
  await : t.awaitKey = s.awaitKey ∨ ∃ x, i = .waitForKey x
  pc : t.pc.toNat ≤ 0xFFF ∨ t.pc = s.pc ∨ (∃ k : Fin 16, t.pc = s.stack[k]) ∨
    (∃ addr, (i = .jump addr ∨ i = .callSub addr) ∧ t.pc = addr) ∨
    (∃ addr, i = .jumpIndexed addr ∧ t.pc = indexedTarget addr (s.reg 0#4))

/-- The instruction raises: a key skip with a register above 0x0F, or a byte range above 0xFFF (R134). -/
inductive Raises : Instr → State → FaultRecord → Prop where
  | keyDown {x s} (h : 0xF < (s.reg x).toNat) : Raises (.skipIfKeyDown x) s (.keyIndex ((s.reg x).setWidth 16))
  | keyUp {x s} (h : 0xF < (s.reg x).toNat) : Raises (.skipIfKeyUp x) s (.keyIndex ((s.reg x).setWidth 16))
  | bcd {x s} (h : 0xFFF < s.index.toNat + 2) :
    Raises (.storeBcd x) s (.memoryBounds (if 0xFFF < s.index.toNat then s.index else 0x1000#16))
  | dump {x s} (h : 0xFFF < s.index.toNat + x.toNat) :
    Raises (.dumpRegisters x) s (.memoryBounds (if 0xFFF < s.index.toNat then s.index else 0x1000#16))
  | load {x s} (h : 0xFFF < s.index.toNat + x.toNat) :
    Raises (.loadRegisters x) s (.memoryBounds (if 0xFFF < s.index.toNat then s.index else 0x1000#16))
  | draw {x y n s} (h0 : 0 < n.toNat) (h : 0xFFF < s.index.toNat + (n.toNat - 1)) :
    Raises (.drawSprite x y n) s (.memoryBounds (if 0xFFF < s.index.toNat then s.index else 0x1000#16))

theorem Raises.ne_noFault {i : Instr} {s : State} {f : FaultRecord} (h : Raises i s f) : f ≠ .noFault := by
  cases h <;> simp

theorem Raises.legal {i : Instr} {s : State} {f : FaultRecord} (h : Raises i s f) : f.Legal := by
  cases h
  case keyDown h => simp only [FaultRecord.Legal, BitVec.toNat_setWidth]; omega
  case keyUp h => simp only [FaultRecord.Legal, BitVec.toNat_setWidth]; omega
  all_goals
    simp only [FaultRecord.Legal]
    split
    · assumption
    · decide

/-- Every instruction raises a fault and has no other effect, or has a plain effect. -/
theorem exec_cases (i : Instr) (s t : State) (h : exec i s = .next t) :
    (∃ f, Raises i s f ∧ t = s.raise f) ∨ Plain i s t := by
  have hpc : ∀ (p : Word) k, (adv p k).toNat ≤ 0xFFF := adv_le
  cases i
  case skipIfKeyDown x =>
    by_cases hk : (s.reg x).toNat ≤ 0xF
    · simp only [exec, execSkipIfKeyDown, State.keySkip, keyOperand_ok hk, Host.Outcome.next.injEq] at h
      subst h; right; constructor <;> simp [hpc]
    · have hk : 0xF < (s.reg x).toNat := by omega
      simp only [exec, execSkipIfKeyDown, State.keySkip, keyOperand_error hk, Host.Outcome.next.injEq] at h
      exact .inl ⟨_, .keyDown hk, h.symm⟩
  case skipIfKeyUp x =>
    by_cases hk : (s.reg x).toNat ≤ 0xF
    · simp only [exec, execSkipIfKeyUp, State.keySkip, keyOperand_ok hk, Host.Outcome.next.injEq] at h
      subst h; right; constructor <;> simp [hpc]
    · have hk : 0xF < (s.reg x).toNat := by omega
      simp only [exec, execSkipIfKeyUp, State.keySkip, keyOperand_error hk, Host.Outcome.next.injEq] at h
      exact .inl ⟨_, .keyUp hk, h.symm⟩
  case storeBcd x =>
    by_cases hr : s.index.toNat + 2 ≤ 0xFFF
    · simp only [exec, execStoreBcd, rangeFault_none.mpr hr, guarded_none, Host.Outcome.next.injEq] at h
      subst h; right; constructor <;> try simp [hpc]
      exact .inr ⟨_, rfl, rfl⟩
    · have hr : 0xFFF < s.index.toNat + 2 := by omega
      simp only [exec, execStoreBcd, rangeFault_some hr, guarded_some, Host.Outcome.next.injEq] at h
      exact .inl ⟨_, .bcd hr, h.symm⟩
  case dumpRegisters x =>
    by_cases hr : s.index.toNat + x.toNat ≤ 0xFFF
    · simp only [exec, execDumpRegisters, rangeFault_none.mpr hr, guarded_none, Host.Outcome.next.injEq] at h
      subst h; right; constructor <;> try simp [hpc]
      exact .inr ⟨_, rfl, by simp [State.regsThrough]⟩
    · have hr : 0xFFF < s.index.toNat + x.toNat := by omega
      simp only [exec, execDumpRegisters, rangeFault_some hr, guarded_some, Host.Outcome.next.injEq] at h
      exact .inl ⟨_, .dump hr, h.symm⟩
  case loadRegisters x =>
    by_cases hr : s.index.toNat + x.toNat ≤ 0xFFF
    · simp only [exec, execLoadRegisters, rangeFault_none.mpr hr, guarded_none, Host.Outcome.next.injEq] at h
      subst h; right; constructor <;> simp [hpc]
    · have hr : 0xFFF < s.index.toNat + x.toNat := by omega
      simp only [exec, execLoadRegisters, rangeFault_some hr, guarded_some, Host.Outcome.next.injEq] at h
      exact .inl ⟨_, .load hr, h.symm⟩
  case drawSprite x y n =>
    by_cases hr : n.toNat = 0 ∨ s.index.toNat + (n.toNat - 1) ≤ 0xFFF
    · simp only [exec, execDrawSprite, spriteFault_none.mpr hr, guarded_none, Host.Outcome.next.injEq] at h
      subst h; right; constructor <;> simp [hpc]
    · have h0 : 0 < n.toNat := by omega
      have hr : 0xFFF < s.index.toNat + (n.toNat - 1) := by omega
      simp only [exec, execDrawSprite, spriteFault_some h0 hr, guarded_some, Host.Outcome.next.injEq] at h
      exact .inl ⟨_, .draw h0 hr, h.symm⟩
  case ret =>
    right
    simp only [exec, execRet] at h
    split at h
    · simp only [Host.Outcome.next.injEq] at h
      subst h; constructor <;> try simp
      exact .inr (.inr ⟨⟨s.sp.val - 1, by omega⟩, rfl⟩)
    · simp only [Host.Outcome.next.injEq] at h
      subst h; constructor <;> simp; omega
  case callSub addr =>
    right
    simp only [exec, execCallSub] at h
    split at h
    · rename_i hroom
      simp only [Host.Outcome.next.injEq] at h
      subst h; constructor <;> try simp
      exact .inr ⟨_, hroom, rfl⟩
    · simp only [Host.Outcome.next.injEq] at h
      subst h; constructor <;> simp; omega
  all_goals
    right
    simp only [exec] at h
    cases h
    constructor <;> simp [hpc]

end Sys2Proof.Machine
end

