-- ==== Sys2Proof/Laws/Cycle.lean ====
section
/-! SUPPORT. What one step can do, said once: the cases of the cycle driver (R73), each as an equation for `step`. -/

namespace Sys2Proof.Machine

/-- Latching and acknowledging give the state an instruction starts from. -/
theorem acknowledge_latchPorts (s : State) (p : CyclePorts) :
    (s.latchPorts p).acknowledge p.redrawAck = cycleStart s p := by
  cases h : p.redrawAck <;> simp [State.latchPorts, State.acknowledge, cycleStart, h]

/-- A cycle move takes nothing of the block's own state. -/
theorem nextMove_cycle {s s0 : State} {p : CyclePorts} (h : s.nextMove = (.cycle p, s0)) :
    s0 = { s with hostMoves := s0.hostMoves, draws := s0.draws } := by
  unfold State.nextMove at h
  split at h <;> (cases h; rfl)

theorem nextMove_reset {s s0 : State} {rom} (h : s.nextMove = (.reset rom, s0)) :
    s0 = { s with hostMoves := s0.hostMoves } := by
  unfold State.nextMove at h
  split at h <;> (cases h; try rfl)

/-- The word a fetch reads, as bits and as the number of R40. -/
theorem wordOfBytes_eq (hi lo : Byte) : wordOfBytes hi lo = BitVec.ofNat 16 (256 * hi.toNat + lo.toNat) := by
  apply BitVec.eq_of_toNat_eq
  unfold wordOfBytes
  rw [Laws.toNat_append_eq, BitVec.toNat_ofNat, Nat.mod_eq_of_lt (by omega)]
  omega

/-- Decoding fails only as UnknownOpcode of the word itself (R64). -/
theorem decode_error {w : Word} {e : DecodeError} (h : decode w = .error e) : e = .unknownOpcode w := by
  unfold decode at h
  split at h <;> try cases h
  · unfold decode8 at h; split at h <;> cases h; rfl
  · unfold decodeE at h; split at h <;> cases h; rfl
  · unfold decodeF at h; split at h <;> cases h; rfl

/-! ### The branches of a cycle -/

theorem step_of_halted {s s0 : State} {p : CyclePorts} (hm : s.nextMove = (.cycle p, s0)) (h : s.halt = true) :
    step s = .next (s0.latchPorts p) := by
  have h0 : s0.halt = true := by rw [nextMove_cycle hm]; exact h
  simp [step, State.stepMove, hm, State.cycle, State.driverState, h0]

theorem step_of_wait {s s0 : State} {p : CyclePorts} {r : Reg} (hm : s.nextMove = (.cycle p, s0))
    (h : s.halt = false) (ha : s.awaitKey = some r) :
    step s = match p.keyEvent with
      | some k => .next ((cycleStart s0 p).resolve r k)
      | none => .next (cycleStart s0 p) := by
  have h0 : s0.halt = false := by rw [nextMove_cycle hm]; exact h
  have h1 : s0.awaitKey = some r := by rw [nextMove_cycle hm]; exact ha
  have hd : (s0.latchPorts p).driverState = .awaitingKey r := by
    simp [State.driverState, State.latchPorts, h0, h1]
  cases hk : p.keyEvent <;> simp only [step, State.stepMove, hm, State.cycle, hd, acknowledge_latchPorts, hk]

theorem step_of_running {s s0 : State} {p : CyclePorts} (hm : s.nextMove = (.cycle p, s0)) (h : s.Running) :
    step s = (cycleStart s0 p).runningCycle := by
  have h0 : s0.halt = false := by rw [nextMove_cycle hm]; exact h.1
  have h1 : s0.awaitKey = none := by rw [nextMove_cycle hm]; exact h.2
  simp [step, State.stepMove, hm, State.cycle, State.driverState, h0, h1, acknowledge_latchPorts]

theorem step_of_reset {s s0 : State} {rom} (hm : s.nextMove = (.reset rom, s0)) :
    step s = .next (s0.assertReset rom) := by
  simp [step, State.stepMove, hm]

/-- The fetch of a cycle (R74): the word at PC, or MemoryBounds with the lowest address above 0xFFF. -/
theorem fetch_cycleStart {s s0 : State} {p : CyclePorts} (hm : s.nextMove = (.cycle p, s0)) :
    (cycleStart s0 p).fetch =
      if s.pc.toNat < 0xFFF then .ok (fetchedWord s)
      else .error (.memoryBounds (if 0xFFF < s.pc.toNat then s.pc else 0x1000#16)) := by
  have hpc : (cycleStart s0 p).pc = s.pc := by rw [nextMove_cycle hm]; rfl
  have hmem : (cycleStart s0 p).mem = s.mem := by rw [nextMove_cycle hm]; rfl
  unfold State.fetch
  rw [hpc, hmem]
  by_cases h : s.pc.toNat < 0xFFF
  · rw [rangeFault_none.mpr (by omega), if_pos h, wordOfBytes_eq]; rfl
  · rw [rangeFault_some (by omega), if_neg h]

/-- A Running cycle, fetch and decode resolved (R73, R75, R78). -/
theorem step_running_cases {s s0 : State} {p : CyclePorts} (hm : s.nextMove = (.cycle p, s0)) (h : s.Running) :
    (0xFFF ≤ s.pc.toNat ∧ step s = .next ((cycleStart s0 p).raise
      (.memoryBounds (if 0xFFF < s.pc.toNat then s.pc else 0x1000#16)))) ∨
    (s.pc.toNat < 0xFFF ∧ decode (fetchedWord s) = .error (.unknownOpcode (fetchedWord s)) ∧
      step s = .next (((cycleStart s0 p).report (.unknownOpcode (fetchedWord s))).apply .advance).tick) ∨
    (s.pc.toNat < 0xFFF ∧ ∃ i t, decode (fetchedWord s) = .ok i ∧ exec i (cycleStart s0 p) = .next t ∧
      step s = .next t.endCycle) := by
  rw [step_of_running hm h]
  unfold State.runningCycle
  rw [fetch_cycleStart hm]
  by_cases hpc : s.pc.toNat < 0xFFF
  · rw [if_pos hpc]
    cases hd : decode (fetchedWord s) with
    | error e =>
      obtain rfl := decode_error hd
      exact .inr (.inl ⟨hpc, rfl, by simp [State.runWord, hd]⟩)
    | ok i =>
      obtain ⟨t, ht⟩ := exec_next i (cycleStart s0 p)
      exact .inr (.inr ⟨hpc, i, t, rfl, ht, by simp [State.runWord, hd, ht]⟩)
  · rw [if_neg hpc]
    exact .inl ⟨by omega, rfl⟩

end Sys2Proof.Machine
end

