-- ==== Sys2Proof/Laws/Frame.lean ====
section
/-! SUPPORT. What the shared operations leave alone, as the statements say it (`Frame`), and the forms the key skips
and the guarded meanings take once their operand is known. -/

namespace Sys2Proof.Machine

theorem frame_apply (s : State) (d : Directive) : Frame (fun q => q = .pc) s (s.apply d) := by
  intro q hq
  cases d <;> cases q <;> first | rfl | (exfalso; apply hq; simp)

theorem frame_setReg_apply (s : State) (d : Directive) (r : Reg) (b : Byte) :
    Frame (fun q => q = .reg r ∨ q = .pc) s ((s.setReg r b).apply d) := by
  intro q hq
  cases q
  case reg k =>
    have hk : k ≠ r := fun e => hq (.inl (by rw [e]))
    show ((s.setReg r b).apply d).reg k = s.reg k
    rw [reg_apply, reg_setReg, if_neg hk]
  all_goals first | (cases d <;> rfl) | (exfalso; apply hq; simp)

theorem frame_setRegThenFlag_apply (s : State) (d : Directive) (r : Reg) (b : Byte) (f : Bool) :
    Frame (fun q => q = .reg r ∨ q = .reg 0xF#4 ∨ q = .pc) s ((s.setRegThenFlag r b f).apply d) := by
  intro q hq
  cases q
  case reg k =>
    have hr : k ≠ r := fun e => hq (.inl (by rw [e]))
    have hf : k ≠ regF := fun e => hq (.inr (.inl (by rw [e]; rfl)))
    show ((s.setRegThenFlag r b f).apply d).reg k = s.reg k
    rw [reg_apply, reg_setRegThenFlag, if_neg hf, if_neg hr]
  all_goals first | (cases d <;> rfl) | (exfalso; apply hq; simp)

theorem frame_loadRegsThrough_apply (s : State) (d : Directive) (x : Reg) (a : Nat) :
    Frame (fun q => q = .pc ∨ ∃ k : Reg, k.toNat ≤ x.toNat ∧ q = .reg k) s ((s.loadRegsThrough x a).apply d) := by
  intro q hq
  cases q
  case reg k =>
    show ((s.loadRegsThrough x a).apply d).reg k = s.reg k
    rw [reg_apply, reg_loadRegsThrough, if_neg fun h => hq (.inr ⟨k, h, rfl⟩)]
  case pc => exact absurd (.inl rfl) hq
  all_goals simp [Part.Same, State.cell, State.readByte]

/-- Frames compose. -/
theorem Frame.trans {w : Part → Prop} {s t u : State} (h : Frame w s t) (g : Frame w t u) : Frame w s u := by
  intro q hq
  have a := h q hq
  have b := g q hq
  cases q <;> exact Eq.trans b a

/-- A frame that names more pieces says less. -/
theorem Frame.weaken {w w' : Part → Prop} {s t : State} (h : Frame w s t) (hw : ∀ q, w q → w' q) : Frame w' s t :=
  fun q hq => h q fun hwq => hq (hw q hwq)

/-- A key skip with a legal key. -/
theorem keySkip_ok (s : State) (x : Reg) (c : Bool → Bool) (h : (s.reg x).toNat ≤ 0xF) :
    s.keySkip x c = .next (s.apply (skipIf (c (s.keys.toNat.testBit (s.reg x).toNat)))) := by
  simp only [State.keySkip, keyOperand_ok h, keyDown_setWidth s _ h]

/-- A key skip with an illegal key. -/
theorem keySkip_error (s : State) (x : Reg) (c : Bool → Bool) (h : 0xF < (s.reg x).toNat) :
    s.keySkip x c = .next (s.raise (.keyIndex ((s.reg x).setWidth 16))) := by
  simp only [State.keySkip, keyOperand_error h]

/-- VF's value as a number. -/
theorem flag_toNat (f : Bool) : (if f then 1#8 else 0#8).toNat = if f then 1 else 0 := by cases f <;> rfl

/-- Byte k of the registers DumpRegisters stores. -/
theorem regsThrough_get (s : State) (x k : Reg) (h : k.toNat ≤ x.toNat) :
    ∃ hl : k.toNat < (s.regsThrough x).length, (s.regsThrough x)[k.toNat] = s.reg k := by
  have hl : k.toNat < (s.regsThrough x).length := by simp [State.regsThrough]; omega
  exact ⟨hl, by simp [State.regsThrough, State.reg]⟩

/-- A sprite's lit pixels, as the list of the draw's pixels and as the statements say it. -/
theorem mem_spritePixels_iff (s : State) (x y : Reg) (n : Nat) (cx : Fin 64) (cy : Fin 32) :
    ((cx, cy), true) ∈ spritePixels (s.reg x) (s.reg y) n (fun row => s.mem.read (s.index.toNat + row)) ↔
      s.SpriteLit x y n cx cy := mem_spritePixels ..

end Sys2Proof.Machine
end

