-- ==== Sys2Proof/Laws/PerInstr.lean ====
section
/-! SUPPORT. What is said of every instruction as syntax, one lemma per constructor. -/

namespace Sys2Proof.Laws

/-- The encoding has the bits its opcode-table row fixes (R67). -/
def EncodeMatchesRow.Statement (i : Instr) : Prop := encode i &&& (opcodeRow i).mask = (opcodeRow i).bits

theorem EncodeMatchesRow.call (addr : Word) : EncodeMatchesRow.Statement (.call addr) := by
  simp [EncodeMatchesRow.Statement, encode, opcodeRow, and_F000]

theorem EncodeMatchesRow.clearScreen : EncodeMatchesRow.Statement (.clearScreen) := by
  unfold EncodeMatchesRow.Statement; decide

theorem EncodeMatchesRow.ret : EncodeMatchesRow.Statement (.ret) := by
  unfold EncodeMatchesRow.Statement; decide

theorem EncodeMatchesRow.jump (addr : Word) : EncodeMatchesRow.Statement (.jump addr) := by
  simp [EncodeMatchesRow.Statement, encode, opcodeRow, and_F000]

theorem EncodeMatchesRow.callSub (addr : Word) : EncodeMatchesRow.Statement (.callSub addr) := by
  simp [EncodeMatchesRow.Statement, encode, opcodeRow, and_F000]

theorem EncodeMatchesRow.jumpIndexed (addr : Word) : EncodeMatchesRow.Statement (.jumpIndexed addr) := by
  simp [EncodeMatchesRow.Statement, encode, opcodeRow, and_F000]

theorem EncodeMatchesRow.skipIfEqual (x : Reg) (imm : Byte) : EncodeMatchesRow.Statement (.skipIfEqual x imm) := by
  simp [EncodeMatchesRow.Statement, encode, opcodeRow, and_F000]

theorem EncodeMatchesRow.skipIfNotEqual (x : Reg) (imm : Byte) : EncodeMatchesRow.Statement (.skipIfNotEqual x imm) := by
  simp [EncodeMatchesRow.Statement, encode, opcodeRow, and_F000]

theorem EncodeMatchesRow.skipIfRegistersEqual (x y : Reg) : EncodeMatchesRow.Statement (.skipIfRegistersEqual x y) := by
  simp [EncodeMatchesRow.Statement, encode, opcodeRow, and_F000]

theorem EncodeMatchesRow.skipIfRegistersNotEqual (x y : Reg) : EncodeMatchesRow.Statement (.skipIfRegistersNotEqual x y) := by
  simp [EncodeMatchesRow.Statement, encode, opcodeRow, and_F000]

theorem EncodeMatchesRow.skipIfKeyDown (x : Reg) : EncodeMatchesRow.Statement (.skipIfKeyDown x) := by
  simp [EncodeMatchesRow.Statement, encode, opcodeRow, and_F0FF]

theorem EncodeMatchesRow.skipIfKeyUp (x : Reg) : EncodeMatchesRow.Statement (.skipIfKeyUp x) := by
  simp [EncodeMatchesRow.Statement, encode, opcodeRow, and_F0FF]

theorem EncodeMatchesRow.loadImmediate (x : Reg) (imm : Byte) : EncodeMatchesRow.Statement (.loadImmediate x imm) := by
  simp [EncodeMatchesRow.Statement, encode, opcodeRow, and_F000]

theorem EncodeMatchesRow.addImmediateNoFlag (x : Reg) (imm : Byte) : EncodeMatchesRow.Statement (.addImmediateNoFlag x imm) := by
  simp [EncodeMatchesRow.Statement, encode, opcodeRow, and_F000]

theorem EncodeMatchesRow.copy (dst src : Reg) : EncodeMatchesRow.Statement (.copy dst src) := by
  simp [EncodeMatchesRow.Statement, encode, opcodeRow, and_F00F]

theorem EncodeMatchesRow.bitwiseOr (dst src : Reg) : EncodeMatchesRow.Statement (.bitwiseOr dst src) := by
  simp [EncodeMatchesRow.Statement, encode, opcodeRow, and_F00F]

theorem EncodeMatchesRow.bitwiseAnd (dst src : Reg) : EncodeMatchesRow.Statement (.bitwiseAnd dst src) := by
  simp [EncodeMatchesRow.Statement, encode, opcodeRow, and_F00F]

theorem EncodeMatchesRow.bitwiseXor (dst src : Reg) : EncodeMatchesRow.Statement (.bitwiseXor dst src) := by
  simp [EncodeMatchesRow.Statement, encode, opcodeRow, and_F00F]

theorem EncodeMatchesRow.addWithCarry (dst src : Reg) : EncodeMatchesRow.Statement (.addWithCarry dst src) := by
  simp [EncodeMatchesRow.Statement, encode, opcodeRow, and_F00F]

theorem EncodeMatchesRow.subtractForward (dst src : Reg) : EncodeMatchesRow.Statement (.subtractForward dst src) := by
  simp [EncodeMatchesRow.Statement, encode, opcodeRow, and_F00F]

theorem EncodeMatchesRow.subtractReverse (dst src : Reg) : EncodeMatchesRow.Statement (.subtractReverse dst src) := by
  simp [EncodeMatchesRow.Statement, encode, opcodeRow, and_F00F]

theorem EncodeMatchesRow.shiftRight (x : Reg) : EncodeMatchesRow.Statement (.shiftRight x) := by
  simp [EncodeMatchesRow.Statement, encode, opcodeRow, and_F00F]

theorem EncodeMatchesRow.shiftLeft (x : Reg) : EncodeMatchesRow.Statement (.shiftLeft x) := by
  simp [EncodeMatchesRow.Statement, encode, opcodeRow, and_F00F]

theorem EncodeMatchesRow.setIndex (addr : Word) : EncodeMatchesRow.Statement (.setIndex addr) := by
  simp [EncodeMatchesRow.Statement, encode, opcodeRow, and_F000]

theorem EncodeMatchesRow.addRegisterToIndex (x : Reg) : EncodeMatchesRow.Statement (.addRegisterToIndex x) := by
  simp [EncodeMatchesRow.Statement, encode, opcodeRow, and_F0FF]

theorem EncodeMatchesRow.setIndexToGlyph (x : Reg) : EncodeMatchesRow.Statement (.setIndexToGlyph x) := by
  simp [EncodeMatchesRow.Statement, encode, opcodeRow, and_F0FF]

theorem EncodeMatchesRow.storeBcd (x : Reg) : EncodeMatchesRow.Statement (.storeBcd x) := by
  simp [EncodeMatchesRow.Statement, encode, opcodeRow, and_F0FF]

theorem EncodeMatchesRow.dumpRegisters (x : Reg) : EncodeMatchesRow.Statement (.dumpRegisters x) := by
  simp [EncodeMatchesRow.Statement, encode, opcodeRow, and_F0FF]

theorem EncodeMatchesRow.loadRegisters (x : Reg) : EncodeMatchesRow.Statement (.loadRegisters x) := by
  simp [EncodeMatchesRow.Statement, encode, opcodeRow, and_F0FF]

theorem EncodeMatchesRow.readDelayTimer (x : Reg) : EncodeMatchesRow.Statement (.readDelayTimer x) := by
  simp [EncodeMatchesRow.Statement, encode, opcodeRow, and_F0FF]

theorem EncodeMatchesRow.setDelayTimer (x : Reg) : EncodeMatchesRow.Statement (.setDelayTimer x) := by
  simp [EncodeMatchesRow.Statement, encode, opcodeRow, and_F0FF]

theorem EncodeMatchesRow.setSoundTimer (x : Reg) : EncodeMatchesRow.Statement (.setSoundTimer x) := by
  simp [EncodeMatchesRow.Statement, encode, opcodeRow, and_F0FF]

theorem EncodeMatchesRow.waitForKey (x : Reg) : EncodeMatchesRow.Statement (.waitForKey x) := by
  simp [EncodeMatchesRow.Statement, encode, opcodeRow, and_F0FF]

theorem EncodeMatchesRow.drawSprite (x y : Reg) (height : BitVec 4) : EncodeMatchesRow.Statement (.drawSprite x y height) := by
  simp [EncodeMatchesRow.Statement, encode, opcodeRow, and_F000]

theorem EncodeMatchesRow.randomMask (x : Reg) (mask : Byte) : EncodeMatchesRow.Statement (.randomMask x mask) := by
  simp [EncodeMatchesRow.Statement, encode, opcodeRow, and_F000]

end Sys2Proof.Laws
end

