-- ==== Sys2Proof/Tests/Slice0.lean ====
section
/-! SUPPORT. Tests. Expected results come from the spec: the encodings of 30_encoding.md, the vectors V-… and W… of
95_test_vectors.md and the examples of the rules, named in each docstring. The last part shows, for every statement
with hypotheses, concrete values that meet them. -/

namespace Sys2Proof.Tests

open Sys2Proof.Machine

/-! ### WellFormed smoke: each check refuses an ill-formed term (R57, R59) -/

/-- Addresses above 0xFFF, in every instruction that has one. -/
theorem test_wf_address : (Instr.jump 0x1000#16).wf = false ∧ (Instr.callSub 0x1000#16).wf = false ∧
    (Instr.jumpIndexed 0xFFFF#16).wf = false ∧ (Instr.setIndex 0x1000#16).wf = false ∧
    (Instr.call 0x1000#16).wf = false ∧ (Instr.jump 0xFFF#16).wf = true := by decide

/-- A Call whose word is ClearScreen's or Return's. -/
theorem test_wf_call_low_byte : (Instr.call 0x0E0#16).wf = false ∧ (Instr.call 0x3EE#16).wf = false ∧
    (Instr.call 0x0E1#16).wf = true := by decide

/-! ### Decoding: words written out from R59-R63 and R67 -/

/-- Op nibble 0, then the low byte: 0000 nnnn nnnn nnnn, 0000 ---- 1110 0000, 0000 ---- 1110 1110; 1nnn, 2nnn,
Bnnn. -/
theorem test_decode_control_flow :
    decode 0b0000000100100011#16 = .ok (.call 0x123#16) ∧ decode 0b0000000000000000#16 = .ok (.call 0#16) ∧
    decode 0b0000000011100000#16 = .ok .clearScreen ∧ decode 0b0000111111100000#16 = .ok .clearScreen ∧
    decode 0b0000000011101110#16 = .ok .ret ∧ decode 0b0000101011101110#16 = .ok .ret ∧
    decode 0b0001001000110100#16 = .ok (.jump 0x234#16) ∧
    decode 0b0010001000010000#16 = .ok (.callSub 0x210#16) ∧
    decode 0b1011001100000001#16 = .ok (.jumpIndexed 0x301#16) := by decide

/-- 3xnn, 4xnn, 5xy-, 9xy-, Ex9E, ExA1. -/
theorem test_decode_skip :
    decode 0b0011001100010010#16 = .ok (.skipIfEqual 3#4 0x12#8) ∧
    decode 0b0100101100010010#16 = .ok (.skipIfNotEqual 0xB#4 0x12#8) ∧
    decode 0b0101000100100000#16 = .ok (.skipIfRegistersEqual 1#4 2#4) ∧
    decode 0b0101101010110111#16 = .ok (.skipIfRegistersEqual 0xA#4 0xB#4) ∧
    decode 0b1001101010110001#16 = .ok (.skipIfRegistersNotEqual 0xA#4 0xB#4) ∧
    decode 0b1110010110011110#16 = .ok (.skipIfKeyDown 5#4) ∧
    decode 0b1110010110100001#16 = .ok (.skipIfKeyUp 5#4) := by decide

/-- 6xnn, 7xnn, 8xy0 to 8xy7, 8x-E. -/
theorem test_decode_register_ops :
    decode 0b0110101000010010#16 = .ok (.loadImmediate 0xA#4 0x12#8) ∧
    decode 0b0111001000000011#16 = .ok (.addImmediateNoFlag 2#4 0x03#8) ∧
    decode 0b1000000100100000#16 = .ok (.copy 1#4 2#4) ∧
    decode 0b1000000100100001#16 = .ok (.bitwiseOr 1#4 2#4) ∧
    decode 0b1000000100100010#16 = .ok (.bitwiseAnd 1#4 2#4) ∧
    decode 0b1000000100100011#16 = .ok (.bitwiseXor 1#4 2#4) ∧
    decode 0b1000000100100100#16 = .ok (.addWithCarry 1#4 2#4) ∧
    decode 0b1000000100100101#16 = .ok (.subtractForward 1#4 2#4) ∧
    decode 0b1000000100100111#16 = .ok (.subtractReverse 1#4 2#4) ∧
    decode 0b1000101010110110#16 = .ok (.shiftRight 0xA#4) ∧
    decode 0b1000101010111110#16 = .ok (.shiftLeft 0xA#4) := by decide

/-- Annn, Fx1E, Fx29, Fx33, Fx55, Fx65. -/
theorem test_decode_memory_index :
    decode 0b1010001100000000#16 = .ok (.setIndex 0x300#16) ∧
    decode 0b1111010000011110#16 = .ok (.addRegisterToIndex 4#4) ∧
    decode 0b1111001000101001#16 = .ok (.setIndexToGlyph 2#4) ∧
    decode 0b1111000000110011#16 = .ok (.storeBcd 0#4) ∧
    decode 0b1111001001010101#16 = .ok (.dumpRegisters 2#4) ∧
    decode 0b1111001001100101#16 = .ok (.loadRegisters 2#4) := by decide

/-- Fx07, Fx15, Fx18, Fx0A, Dxyn, Cxnn. -/
theorem test_decode_timers_display :
    decode 0b1111000100000111#16 = .ok (.readDelayTimer 1#4) ∧
    decode 0b1111000000010101#16 = .ok (.setDelayTimer 0#4) ∧
    decode 0b1111000000011000#16 = .ok (.setSoundTimer 0#4) ∧
    decode 0b1111001100001010#16 = .ok (.waitForKey 3#4) ∧
    decode 0b1101000100100101#16 = .ok (.drawSprite 1#4 2#4 5#4) ∧
    decode 0b1100001100001111#16 = .ok (.randomMask 3#4 0x0F#8) := by decide

/-- The unknown words among the decode spot checks of 95_test_vectors.md. -/
theorem test_decode_unknown :
    decode 0x8AB8#16 = .error (.unknownOpcode 0x8AB8#16) ∧ decode 0x8ABF#16 = .error (.unknownOpcode 0x8ABF#16) ∧
    decode 0xE19F#16 = .error (.unknownOpcode 0xE19F#16) ∧ decode 0xE1A0#16 = .error (.unknownOpcode 0xE1A0#16) ∧
    decode 0xF100#16 = .error (.unknownOpcode 0xF100#16) ∧ decode 0xF10B#16 = .error (.unknownOpcode 0xF10B#16) ∧
    decode 0xF166#16 = .error (.unknownOpcode 0xF166#16) := by decide

/-- The assembler's words (R71): the ignored bits are encoded as 0. -/
theorem test_encode_ignored_bits :
    encode .clearScreen = 0x00E0#16 ∧ encode .ret = 0x00EE#16 ∧ encode (.shiftRight 1#4) = 0x8106#16 ∧
    encode (.shiftLeft 1#4) = 0x810E#16 ∧ encode (.skipIfRegistersEqual 1#4 2#4) = 0x5120#16 ∧
    encode (.skipIfRegistersNotEqual 1#4 2#4) = 0x9120#16 := by decide

/-- W1, through the bytes as memory holds them (R40). -/
theorem test_decode_table_word : decodeTableWord 16 0x6A12 = some (.loadImmediate 0xA#4 0x12#8) ∧
    decodeTableWord 16 0x8008 = none := by decide

/-- The default font of R150: glyph 0, glyph A and the last row of glyph F. -/
theorem test_default_font :
    (List.range 5).map (glyphTableByte (glyphTableOf none)) = [0xF0, 0x90, 0x90, 0x90, 0xF0] ∧
    (List.range 5).map (fun r => glyphTableByte (glyphTableOf none) (50 + r)) = [0xF0, 0x90, 0xF0, 0x90, 0x90] ∧
    glyphTableByte (glyphTableOf none) 79 = 0x80#8 := by decide

/-! ### One step -/

/-- The inputs of a cycle in which the host does nothing, with random byte 0. -/
def quiet : CyclePorts := { keys := none, keyEvent := none, rnd := 0#8, redrawAck := false }

/-- Registers given by number, the others 0. -/
def regs (f : List (Nat × Nat)) : Vector Byte 16 :=
  Vector.ofFn fun k => BitVec.ofNat 8 ((f.lookup k.val).getD 0)

/-- The state after a step whose host move is a cycle with ports p. -/
def cycleOf (s : State) (p : CyclePorts := quiet) : Option State :=
  match step { s with hostMoves := [.cycle p] } with
  | .next t => some t
  | .fault _ => none
  | .refused _ => none

/-- The same with the word stored where the cycle fetches. -/
def runOf (s : State) (w : Nat) (p : CyclePorts := quiet) : Option State :=
  cycleOf (s.withFetchWord 16 w) p

/-- V-F1 and V-F2. -/
theorem test_call : (runOf State.reset 0x0123).map (fun t => t.pc) = some 0x202#16 ∧
    (runOf State.reset 0x0000).map (fun t => (t.pc, t.diag)) = some (0x202#16, none) := by decide

/-- V-F3 and V-F5. -/
theorem test_clear_screen :
    (runOf { State.reset with fb := Framebuffer.flip (Framebuffer.flip Framebuffer.blank 0 0) 63 31 } 0x01E0).map
      (fun t => (t.cell 0 0, t.cell 63 31, t.redraw, t.pc)) = some (false, false, true, 0x202#16) := by decide

/-- V-F6: the entry is not cleared. -/
theorem test_ret :
    (runOf { State.reset with pc := 0x210#16, sp := 1, stack := Vector.replicate 16 0x206#16 } 0x00EE).map
      (fun t => (t.sp, t.pc, t.stack[0])) = some (0, 0x206#16, 0x206#16) := by decide

/-- V-F7. -/
theorem test_ret_underflow : (runOf { State.reset with dt := 3#8 } 0x00EE).map (fun t => (t.diag, t.pc, t.dt)) =
    some (some (.stackUnderflow 0x200#16), 0x200#16, 2#8) := by decide

/-- V-F9. -/
theorem test_jump : (runOf State.reset 0x1234).map (fun t => t.pc) = some 0x234#16 := by decide

/-- V-F13 and V-F15. -/
theorem test_call_sub :
    (runOf { State.reset with sp := 15 } 0x2300).map (fun t => (t.stack[15], t.sp, t.pc)) =
      some (0x202#16, 16, 0x300#16) ∧
    (runOf { State.reset with pc := 0xFFE#16 } 0x2300).map (fun t => (t.stack[0], t.sp, t.pc)) =
      some (0x200#16, 1, 0x300#16) := by decide

/-- V-F14. -/
theorem test_call_sub_overflow : (runOf { State.reset with sp := 16 } 0x2300).map (fun t => (t.diag, t.sp, t.pc)) =
    some (some (.stackOverflow 0x200#16), 16, 0x200#16) := by decide

/-- V-F17. -/
theorem test_jump_indexed : (runOf { State.reset with v := regs [(0, 0xFF)] } 0xBFFF).map (fun t => t.pc) =
    some 0x10FE#16 := by decide

/-- V-S1 and V-S3. -/
theorem test_skip_if_equal :
    (runOf { State.reset with v := regs [(3, 0x12)] } 0x3312).map (fun t => t.pc) = some 0x204#16 ∧
    (runOf { State.reset with v := regs [(3, 0x12)], pc := 0xFFC#16 } 0x3312).map (fun t => t.pc) =
      some 0x200#16 := by decide

/-- V-S5 and V-S6. -/
theorem test_skip_if_not_equal :
    (runOf { State.reset with v := regs [(3, 0x12)] } 0x4312).map (fun t => t.pc) = some 0x202#16 ∧
    (runOf State.reset 0x4312).map (fun t => t.pc) = some 0x204#16 := by decide

/-- V-S8 and V-S9. -/
theorem test_skip_if_registers_equal :
    (runOf { State.reset with v := regs [(1, 7), (2, 7)] } 0x5120).map (fun t => t.pc) = some 0x204#16 ∧
    (runOf { State.reset with v := regs [(1, 7), (2, 8)] } 0x5121).map (fun t => t.pc) = some 0x202#16 := by decide

/-- V-S11 and V-S12. -/
theorem test_skip_if_registers_not_equal :
    (runOf { State.reset with v := regs [(1, 7), (2, 8)] } 0x9120).map (fun t => t.pc) = some 0x204#16 ∧
    (runOf { State.reset with v := regs [(5, 1)] } 0x9550).map (fun t => t.pc) = some 0x202#16 := by decide

/-- V-S13 (KEYS written by the host before the cycle, R87) and V-S15. -/
theorem test_skip_if_key_down :
    (runOf { State.reset with v := regs [(5, 7)] } 0xE59E { quiet with keys := some 0x80#16 }).map (fun t => t.pc) =
      some 0x204#16 ∧
    (runOf { State.reset with v := regs [(5, 7)] } 0xE59E { quiet with keyEvent := some 7#4 }).map (fun t => t.pc) =
      some 0x202#16 := by decide

/-- V-S17, V-S18 and V-S19. -/
theorem test_skip_if_key_up :
    (runOf { State.reset with v := regs [(5, 7)] } 0xE5A1).map (fun t => t.pc) = some 0x204#16 ∧
    (runOf { State.reset with v := regs [(5, 7)], keys := 0x80#16 } 0xE5A1).map (fun t => t.pc) = some 0x202#16 ∧
    (runOf { State.reset with v := regs [(5, 0xFF)] } 0xE5A1).map (fun t => (t.halt, t.fault, t.pc)) =
      some (true, .keyIndex 0x00FF#16, 0x200#16) := by decide

/-- V-R1 and V-R2. -/
theorem test_load_immediate : (runOf State.reset 0x6A12).map (fun t => (t.reg 0xA#4, t.pc)) =
      some (0x12#8, 0x202#16) ∧
    (runOf State.reset 0x6F55).map (fun t => t.reg 0xF#4) = some 0x55#8 := by decide

/-- V-R3 and V-R4. -/
theorem test_add_immediate :
    (runOf { State.reset with v := regs [(2, 0xFE)] } 0x7203).map (fun t => (t.reg 2#4, t.reg 0xF#4)) =
      some (0x01#8, 0x00#8) ∧
    (runOf { State.reset with v := regs [(15, 0xFF)] } 0x7F01).map (fun t => t.reg 0xF#4) = some 0x00#8 := by decide

/-- V-R5. -/
theorem test_copy : (runOf { State.reset with v := regs [(1, 0x42)] } 0x8010).map (fun t => (t.reg 0#4, t.reg 1#4)) =
    some (0x42#8, 0x42#8) := by decide

/-- V-R6. -/
theorem test_bitwise_or :
    (runOf { State.reset with v := regs [(0, 0xF0), (1, 0x0F), (15, 0x77)] } 0x8011).map
      (fun t => (t.reg 0#4, t.reg 0xF#4)) = some (0xFF#8, 0x77#8) := by decide

/-- V-R7. -/
theorem test_bitwise_and :
    (runOf { State.reset with v := regs [(0, 0xF3), (1, 0x3F), (15, 0x77)] } 0x8012).map
      (fun t => (t.reg 0#4, t.reg 0xF#4)) = some (0x33#8, 0x77#8) := by decide

/-- V-R8. -/
theorem test_bitwise_xor :
    (runOf { State.reset with v := regs [(0, 0xFF), (1, 0x0F), (15, 0x77)] } 0x8013).map
      (fun t => (t.reg 0#4, t.reg 0xF#4)) = some (0xF0#8, 0x77#8) := by decide

/-- V-R10 and V-R12. -/
theorem test_add_with_carry :
    (runOf { State.reset with v := regs [(0, 200), (1, 100)] } 0x8014).map (fun t => (t.reg 0#4, t.reg 0xF#4)) =
      some (0x2C#8, 1#8) ∧
    (runOf { State.reset with v := regs [(0, 0x80), (1, 0x7F), (15, 1)] } 0x8014).map
      (fun t => (t.reg 0#4, t.reg 0xF#4)) = some (0xFF#8, 0#8) := by decide

/-- V-R13 and V-R14: VF as destination and as operand. -/
theorem test_add_with_carry_vf :
    (runOf { State.reset with v := regs [(15, 0xFF), (1, 2)] } 0x8F14).map (fun t => t.reg 0xF#4) = some 1#8 ∧
    (runOf { State.reset with v := regs [(0, 0x10), (15, 1)] } 0x80F4).map (fun t => (t.reg 0#4, t.reg 0xF#4)) =
      some (0x11#8, 0#8) := by decide

/-- W3, W4 and V-R18. -/
theorem test_subtract_forward :
    (runOf { State.reset with v := regs [(0, 5), (1, 10)] } 0x8015).map (fun t => (t.reg 0#4, t.reg 0xF#4)) =
      some (251#8, 0#8) ∧
    (runOf { State.reset with v := regs [(0, 10), (1, 5)] } 0x8015).map (fun t => (t.reg 0#4, t.reg 0xF#4)) =
      some (5#8, 1#8) ∧
    (runOf { State.reset with v := regs [(0, 7), (1, 7)] } 0x8015).map (fun t => (t.reg 0#4, t.reg 0xF#4)) =
      some (0#8, 1#8) := by decide

/-- V-R20 and V-R21. -/
theorem test_subtract_reverse :
    (runOf { State.reset with v := regs [(0, 5), (1, 10)] } 0x8017).map (fun t => (t.reg 0#4, t.reg 0xF#4)) =
      some (5#8, 1#8) ∧
    (runOf { State.reset with v := regs [(0, 10), (1, 5)] } 0x8017).map (fun t => (t.reg 0#4, t.reg 0xF#4)) =
      some (0xFB#8, 0#8) := by decide

/-- W5 and V-R25: the y field plays no part. -/
theorem test_shift_right :
    (runOf { State.reset with v := regs [(1, 3)] } 0x8106).map (fun t => (t.reg 1#4, t.reg 0xF#4)) =
      some (1#8, 1#8) ∧
    (runOf { State.reset with v := regs [(1, 0x81), (2, 0xFF)] } 0x8126).map (fun t => (t.reg 1#4, t.reg 0xF#4)) =
      some (0x40#8, 1#8) := by decide

/-- W6 and V-R29. -/
theorem test_shift_left :
    (runOf { State.reset with v := regs [(1, 0x81)] } 0x810E).map (fun t => (t.reg 1#4, t.reg 0xF#4)) =
      some (2#8, 1#8) ∧
    (runOf { State.reset with v := regs [(15, 0x80)] } 0x8F0E).map (fun t => t.reg 0xF#4) = some 1#8 := by decide

/-- V-M1. -/
theorem test_set_index : (runOf State.reset 0xA300).map (fun t => t.index) = some 0x300#16 := by decide

/-- V-M3, V-M5 and V-M6. -/
theorem test_add_register_to_index :
    (runOf { State.reset with index := 0xFFF#16, v := regs [(0, 1)] } 0xF01E).map (fun t => (t.index, t.reg 0xF#4)) =
      some (0x1000#16, 1#8) ∧
    (runOf { State.reset with index := 0xFFFF#16, v := regs [(0, 1)] } 0xF01E).map
      (fun t => (t.index, t.reg 0xF#4)) = some (0#16, 1#8) ∧
    (runOf { State.reset with index := 0x100#16, v := regs [(15, 0x20)] } 0xFF1E).map
      (fun t => (t.index, t.reg 0xF#4)) = some (0x120#16, 0#8) := by decide

/-- V-M9, for every GLYPH_BASE. -/
theorem test_set_index_to_glyph : (runOf { State.reset with v := regs [(2, 0xFF)] } 0xF229).map (fun t => t.index) =
    some (BitVec.ofNat 16 (glyphBase + 0x4FB)) := by rfl

/-- V-M13. -/
theorem test_store_bcd :
    (runOf { State.reset with v := regs [(0, 123)], index := 0xFFD#16 } 0xF033).map
      (fun t => (t.readByte 0xFFD, t.readByte 0xFFE, t.readByte 0xFFF, t.index)) =
      some (1#8, 2#8, 3#8, 0xFFD#16) := by decide

/-- V-M14 and V-M15. -/
theorem test_store_bcd_bounds :
    (runOf { State.reset with v := regs [(0, 123)], index := 0xFFE#16 } 0xF033).map
      (fun t => (t.halt, t.fault, t.readByte 0xFFE, t.pc)) = some (true, .memoryBounds 0x1000#16, 0#8, 0x200#16) ∧
    (runOf { State.reset with v := regs [(0, 123)], index := 0x2000#16 } 0xF033).map (fun t => t.fault) =
      some (.memoryBounds 0x2000#16) := by decide

/-- V-M16 and V-M17. -/
theorem test_dump_registers :
    (runOf { State.reset with v := regs [(0, 1), (1, 2), (2, 3)], index := 0x300#16 } 0xF255).map
      (fun t => (t.readByte 0x300, t.readByte 0x301, t.readByte 0x302, t.index)) =
      some (1#8, 2#8, 3#8, 0x300#16) ∧
    (runOf { State.reset with v := regs [(0, 9), (1, 2)], index := 0x300#16 } 0xF055).map
      (fun t => (t.readByte 0x300, t.readByte 0x301)) = some (9#8, 0#8) := by decide

/-- V-M19: nothing is written. -/
theorem test_dump_registers_bounds :
    (runOf { State.reset with v := regs [(0, 1)], index := 0xFF1#16 } 0xFF55).map
      (fun t => (t.fault, t.readByte 0xFF1)) = some (.memoryBounds 0x1000#16, 0#8) := by decide

/-- V-M20; V3 is above x and stays. -/
theorem test_load_registers :
    (runOf { State.reset with v := regs [(3, 9)], mem := Memory.writeBytes [] 0x300 [1, 2, 3, 4],
                              index := 0x300#16 } 0xF265).map
      (fun t => (t.reg 0#4, t.reg 1#4, t.reg 2#4, t.reg 3#4, t.index)) =
      some (1#8, 2#8, 3#8, 9#8, 0x300#16) := by decide

/-- V-M22. -/
theorem test_load_registers_bounds : (runOf { State.reset with index := 0xFFF#16 } 0xF165).map (fun t => t.fault) =
    some (.memoryBounds 0x1000#16) := by decide

/-- V-T1 and V-T3. -/
theorem test_read_delay_timer :
    (runOf { State.reset with dt := 5#8 } 0xF107).map (fun t => (t.reg 1#4, t.dt)) = some (5#8, 4#8) ∧
    (runOf { State.reset with dt := 0x20#8 } 0xFF07).map (fun t => (t.reg 0xF#4, t.dt)) =
      some (0x20#8, 0x1F#8) := by decide

/-- V-T4 and V-T6. -/
theorem test_set_delay_timer :
    (runOf { State.reset with v := regs [(0, 3)] } 0xF015).map (fun t => t.dt) = some 2#8 ∧
    (runOf { State.reset with dt := 9#8 } 0xF015).map (fun t => t.dt) = some 0#8 := by decide

/-- V-T7. -/
theorem test_set_sound_timer : (runOf { State.reset with v := regs [(0, 0x10)] } 0xF018).map (fun t => t.st) =
    some 0x0F#8 := by decide

/-- V-T8 and V-T9: the event of the executing cycle is lost. -/
theorem test_wait_for_key :
    (runOf { State.reset with dt := 2#8, st := 1#8 } 0xF30A { quiet with keyEvent := some 5#4 }).map
      (fun t => (t.awaitKey, t.pc, t.dt, t.st, t.reg 3#4)) =
      some (some 3#4, 0x200#16, 1#8, 0#8, 0#8) := by decide

/-- V-T11, V-T12 and V-T13. -/
theorem test_key_wait_resolution :
    (cycleOf { State.reset with awaitKey := some 3#4, dt := 4#8 } { quiet with keyEvent := some 0xC#4 }).map
      (fun t => (t.reg 3#4, t.awaitKey, t.pc, t.dt)) = some (0x0C#8, none, 0x202#16, 4#8) ∧
    (cycleOf { State.reset with awaitKey := some 0xF#4 } { quiet with keyEvent := some 0xA#4 }).map
      (fun t => t.reg 0xF#4) = some 0x0A#8 ∧
    (cycleOf { State.reset with awaitKey := some 0#4, pc := 0xFFE#16 } { quiet with keyEvent := some 1#4 }).map
      (fun t => t.pc) = some 0x200#16 := by decide

/-- V-T10 and V-T14. -/
theorem test_key_wait_idle :
    (cycleOf { State.reset with awaitKey := some 2#4, redraw := true, dt := 4#8 }
      { quiet with redrawAck := true }).map (fun t => (t.redraw, t.awaitKey, t.pc, t.dt)) =
      some (false, some 2#4, 0x200#16, 4#8) := by decide

/-- V-D1 and V-D3. -/
theorem test_random_mask :
    (runOf State.reset 0xC30F { quiet with rnd := 0xA5#8 }).map (fun t => t.reg 3#4) = some 0x05#8 ∧
    (runOf State.reset 0xCFF0 { quiet with rnd := 0x3C#8 }).map (fun t => t.reg 0xF#4) = some 0x30#8 := by decide

/-- V-D7: both axes wrap. -/
theorem test_draw_sprite_wraps :
    (runOf { State.reset with v := regs [(0, 62), (1, 31)], index := 0x300#16,
                              mem := Memory.writeBytes [] 0x300 [0xC0, 0x81] } 0xD012).map
      (fun t => ([t.cell 62 31, t.cell 63 31, t.cell 62 0, t.cell 5 0, t.cell 0 31, t.cell 63 0],
        t.reg 0xF#4, t.redraw)) =
      some ([true, true, true, true, false, false], 0#8, true) := by decide

/-- A second draw over the first (W7) collides and unlights; V-D9 faults. -/
theorem test_draw_sprite_collision :
    (runOf { State.reset with index := 0x300#16, mem := Memory.writeBytes [] 0x300 [0x80],
                              fb := Framebuffer.flip Framebuffer.blank 0 0 } 0xD011).map
      (fun t => (t.cell 0 0, t.reg 0xF#4)) = some (false, 1#8) ∧
    (runOf { State.reset with index := 0xFFF#16 } 0xD012).map (fun t => (t.fault, t.redraw)) =
      some (.memoryBounds 0x1000#16, false) := by decide

/-! ### The cycle driver -/

/-- V-C1. -/
theorem test_unknown_opcode : (runOf { State.reset with dt := 1#8, st := 2#8 } 0xE000).map
      (fun t => (t.diag, t.pc, t.dt, t.st)) = some (some (.unknownOpcode 0xE000#16), 0x202#16, 0#8, 1#8) := by decide

/-- V-C3 and V-C5. -/
theorem test_fetch_bounds :
    (cycleOf { State.reset with pc := 0xFFF#16 }).map (fun t => (t.halt, t.fault, t.pc)) =
      some (true, .memoryBounds 0x1000#16, 0xFFF#16) ∧
    (cycleOf { State.reset with pc := 0x10FE#16 }).map (fun t => t.fault) = some (.memoryBounds 0x10FE#16) := by decide

/-- V-C6: nothing changes but the ports (log entries 5 and 22). -/
theorem test_halted :
    cycleOf { State.reset with halt := true, fault := .memoryBounds 0x1000#16, dt := 4#8, redraw := true }
      { quiet with redrawAck := true, keyEvent := some 3#4 } =
    some { State.reset with halt := true, fault := .memoryBounds 0x1000#16, dt := 4#8, redraw := true } := by decide

/-- V-C11: the acknowledgement before a fault remains, and the timers do not tick. -/
theorem test_fault_keeps_acknowledgement :
    (runOf { State.reset with index := 0xFFE#16, redraw := true, dt := 3#8 } 0xF033
      { quiet with redrawAck := true }).map (fun t => (t.halt, t.redraw, t.dt)) = some (true, false, 3#8) := by decide

/-- V-D11: the acknowledgement clears first, then the draw sets. -/
theorem test_acknowledge_then_draw :
    (runOf { State.reset with index := 0x300#16, mem := Memory.writeBytes [] 0x300 [0x01], redraw := true } 0xD011
      { quiet with redrawAck := true }).map (fun t => (t.cell 7 0, t.redraw)) = some (true, true) := by decide

/-- V-C9 and V-C12: the wrap. -/
theorem test_pc_wrap :
    (runOf { State.reset with pc := 0xFFE#16 } 0x6001).map (fun t => (t.reg 0#4, t.pc)) = some (1#8, 0x200#16) ∧
    (cycleOf { State.reset with pc := 0xFFE#16 }).map (fun t => t.pc) = some 0x200#16 := by decide

/-- W9's program, loaded by a reset move in the middle of a run; its first cycle clears the screen. -/
theorem test_reset_and_rom_load :
    step { State.reset with v := regs [(1, 1)], pc := 0x300#16, halt := true, fault := .keyIndex 0x10#16,
                            hostMoves := [.reset ⟨[0x00, 0xE0, 0x60, 0x05], by decide⟩] } =
      .next { State.reset with mem := [(0x201, 0xE0#8), (0x202, 0x60#8), (0x203, 0x05#8)] } := by rfl

/-- The outputs of a halted state (R91, R133). -/
theorem test_outputs :
    let o := State.outputs { State.reset with halt := true, fault := .keyIndex 0x10#16, st := 7#8 }
    (o.halted, o.faultCode, o.faultInfo, o.soundTimer, o.diagValid, o.awaitingKey) =
      (true, 2#4, 0x10#16, 7#8, false, false) := by decide

/-- From reset, the word that is placed is the one that runs, and the random byte is free. -/
theorem test_with_fetch_word : ∃ t, step (State.reset.withFetchWord 16 0x1234) = .next t ∧ t.pc = 0x234#16 :=
  ⟨_, rfl, rfl⟩

/-! ### Witnesses: for every statement with hypotheses, values that meet them together, at the boundaries of each
clause -/

/-- A state whose next host move is a cycle with ports p. -/
def due (s : State) (p : CyclePorts := quiet) : State := { s with hostMoves := [.cycle p] }

/-- DecodeOfEncodeIsTheInstruction. -/
theorem test_witness_wf : (Instr.callSub 0xFFF#16).wf = true ∧ (Instr.call 0xFFF#16).wf = true ∧
    (Instr.setIndex 0#16).wf = true ∧ (Instr.drawSprite 0xF#4 0xF#4 0xF#4).wf = true := by decide

/-- EncodeOfDecodeKeepsTheReadBits: words with ignored bits set. -/
theorem test_witness_decode_ok : decode 0x8AB6#16 = .ok (.shiftRight 0xA#4) ∧ decode 0x0FE0#16 = .ok .clearScreen ∧
    decode 0x5AB7#16 = .ok (.skipIfRegistersEqual 0xA#4 0xB#4) := by decide

/-- UnknownOpcodeWordsAreExactlyTheListed: a word of each of the three families, and their known neighbours. -/
theorem test_witness_unknown_families :
    decode 0x8FFF#16 = .error (.unknownOpcode 0x8FFF#16) ∧ decode 0x8FFE#16 = .ok (.shiftLeft 0xF#4) ∧
    decode 0xE0A2#16 = .error (.unknownOpcode 0xE0A2#16) ∧ decode 0xE0A1#16 = .ok (.skipIfKeyUp 0#4) ∧
    decode 0xF064#16 = .error (.unknownOpcode 0xF064#16) ∧ decode 0xF065#16 = .ok (.loadRegisters 0#4) := by decide

/-- ZeroFamilyIsDecidedByTheLowByte and LegacyCallOnlyAdvances: the least and the greatest word, and the two low bytes
taken out. -/
theorem test_witness_zero_family : decode (BitVec.ofNat 16 0x000) = .ok (.call 0x000#16) ∧
    decode (BitVec.ofNat 16 0xFFF) = .ok (.call 0xFFF#16) ∧ decode (BitVec.ofNat 16 0xFE0) = .ok .clearScreen ∧
    decode (BitVec.ofNat 16 0x0EE) = .ok .ret ∧ 0x0E1 % 256 ≠ 0xE0 ∧ 0x0E1 % 256 ≠ 0xEE := by decide

/-- StepRunsTheDecodedInstruction and UnknownWordIsReportedAndPassed, at the last PC a word fits at. -/
theorem test_witness_running : ∃ s s0 p, State.nextMove s = (.cycle p, s0) ∧ s.Running ∧ s.pc.toNat < 0xFFF ∧
    decode (fetchedWord s) = .ok (.call 0x000#16) :=
  ⟨due { State.reset with pc := 0xFFE#16 }, { State.reset with pc := 0xFFE#16 }, quiet, rfl, ⟨rfl, rfl⟩, by decide,
    by decide⟩

theorem test_witness_unknown : ∃ s s0 p, State.nextMove s = (.cycle p, s0) ∧ s.Running ∧ s.pc.toNat < 0xFFF ∧
    decode (fetchedWord s) = .error (.unknownOpcode (fetchedWord s)) :=
  ⟨due { State.reset with mem := [(0x200, 0xE0#8)] }, { State.reset with mem := [(0x200, 0xE0#8)] }, quiet, rfl,
    ⟨rfl, rfl⟩, by decide, by decide⟩

/-- NextMoveIsTheOldestOrAQuietCycle: a schedule, and none. -/
theorem test_witness_moves : (due State.reset).hostMoves = [.cycle quiet] ∧ State.reset.hostMoves = [] := by decide

/-- FetchAboveMemoryHalts: the PC at which only the second byte is above memory, and the next one. -/
theorem test_witness_fetch_above : ∀ pc ∈ [0xFFF#16, 0x1000#16], ∃ s s0 p, State.nextMove s = (.cycle p, s0) ∧ s.Running ∧
    0xFFF ≤ s.pc.toNat ∧ s.pc = pc :=
  fun pc h => ⟨due { State.reset with pc := pc }, { State.reset with pc := pc }, quiet, rfl, ⟨rfl, rfl⟩, by
    simp only [List.mem_cons, List.not_mem_nil, or_false] at h; rcases h with rfl | rfl <;> decide, rfl⟩

/-- HaltedCycleChangesNothing. -/
theorem test_witness_halted : ∃ s s0 p, State.nextMove s = (.cycle p, s0) ∧ s.halt = true :=
  ⟨due { State.reset with halt := true, fault := .keyIndex 0x10#16 }, _, quiet, rfl, rfl⟩

/-- IdleWaitChangesNothing and KeyEventEndsTheWait: a wait without and with an event, into VF. -/
theorem test_witness_wait : (∃ s s0 p target, State.nextMove s = (.cycle p, s0) ∧ s.halt = false ∧
      s.awaitKey = some target ∧ p.keyEvent = none) ∧
    (∃ s s0 p target k, State.nextMove s = (.cycle p, s0) ∧ s.halt = false ∧ s.awaitKey = some target ∧
      p.keyEvent = some k) :=
  ⟨⟨due { State.reset with awaitKey := some 0#4 }, _, quiet, 0#4, rfl, rfl, rfl, rfl⟩,
   ⟨due { State.reset with awaitKey := some 0xF#4 } { quiet with keyEvent := some 0xF#4 }, _, _, 0xF#4, 0xF#4, rfl,
    rfl, rfl, rfl⟩⟩

/-- KeyEventOutsideAWaitIsLost: a Running and a Halted state. -/
theorem test_witness_event_lost : State.reset.awaitKey = none ∧
    ({ State.reset with halt := true, fault := .keyIndex 0x10#16 } : State).halt = true := by decide

/-- AdvWrapsToProgramStart: the last sum in memory and the first above it, for both increments. -/
theorem test_witness_adv : adv 0xFFD#16 2 = 0xFFF#16 ∧ adv 0xFFE#16 2 = 0x200#16 ∧ adv 0xFFB#16 4 = 0xFFF#16 ∧
    adv 0xFFC#16 4 = 0x200#16 := by decide

/-- TimersTickOncePerRunningCycle: Running without a fault (another instruction, the two timer writes), Running with a
fault, Halted, AwaitingKey. -/
theorem test_witness_timers :
    (∃ s s0 t p, State.nextMove s = (.cycle p, s0) ∧ step s = .next t ∧ s.Running ∧ t.halt = false ∧
      decode (fetchedWord s) = .ok (.call 0#16)) ∧
    (∃ s s0 t p, State.nextMove s = (.cycle p, s0) ∧ step s = .next t ∧ s.Running ∧ t.halt = false ∧
      decode (fetchedWord s) = .ok (.setDelayTimer 0#4)) ∧
    (∃ s s0 t p, State.nextMove s = (.cycle p, s0) ∧ step s = .next t ∧ s.Running ∧ t.halt = false ∧
      decode (fetchedWord s) = .ok (.setSoundTimer 0#4)) ∧
    (∃ s s0 t p, State.nextMove s = (.cycle p, s0) ∧ step s = .next t ∧ s.Running ∧ t.halt = true) ∧
    (∃ s s0 t p, State.nextMove s = (.cycle p, s0) ∧ step s = .next t ∧ s.halt = true) ∧
    (∃ s s0 t p, State.nextMove s = (.cycle p, s0) ∧ step s = .next t ∧ s.awaitKey ≠ none) :=
  ⟨⟨due { State.reset with dt := 1#8 }, _, _, quiet, rfl, rfl, ⟨rfl, rfl⟩, rfl, by decide⟩,
   ⟨due { State.reset with mem := [(0x200, 0xF0#8), (0x201, 0x15#8)] }, _, _, quiet, rfl, rfl, ⟨rfl, rfl⟩, rfl,
    by decide⟩,
   ⟨due { State.reset with mem := [(0x200, 0xF0#8), (0x201, 0x18#8)] }, _, _, quiet, rfl, rfl, ⟨rfl, rfl⟩, rfl,
    by decide⟩,
   ⟨due { State.reset with dt := 1#8, pc := 0xFFF#16 }, _, _, quiet, rfl, rfl, ⟨rfl, rfl⟩, rfl⟩,
   ⟨due { State.reset with dt := 1#8, halt := true, fault := .keyIndex 0x10#16 }, _, _, quiet, rfl, rfl, rfl⟩,
   ⟨due { State.reset with dt := 1#8, awaitKey := some 0#4 }, _, _, quiet, rfl, rfl, by decide⟩⟩

/-- RedrawIsClearedByTheAcknowledgementFirst: acknowledged, and set again by ClearScreen. -/
theorem test_witness_redraw : ∃ s s0 t p, State.nextMove s = (.cycle p, s0) ∧ s.halt = false ∧ step s = .next t ∧
    s.redraw = true ∧ p.redrawAck = true ∧ t.redraw = true ∧ decode (fetchedWord s) = .ok .clearScreen :=
  ⟨due { State.reset with redraw := true, mem := [(0x201, 0xE0#8)] } { quiet with redrawAck := true }, _, _,
    { quiet with redrawAck := true }, rfl, rfl, rfl, rfl, rfl, rfl, by decide⟩

/-- ResetStepDiscardsAllStateAndLoadsTheRom: no ROM, and the longest; there is no longer one (R92). -/
theorem test_witness_rom : (∃ rom : Rom, rom.val = []) ∧ (∃ rom : Rom, rom.val.length = 0xE00) ∧
    ¬ ∃ rom : Rom, rom.val.length = 0xE01 :=
  ⟨⟨⟨[], Nat.zero_le _⟩, rfl⟩, ⟨⟨List.replicate 0xE00 0xFF#8, Nat.le_of_eq List.length_replicate⟩, List.length_replicate⟩,
    fun ⟨rom, h⟩ => absurd (h ▸ rom.property) (by decide)⟩

/-- LoadPortWritesFromProgramStartOnly: the last ignored address and the first written one. -/
theorem test_witness_load_port : Memory.wf [] = true ∧ Memory.loadPort [] 0x1FF#12 7#8 = [] ∧
    Memory.loadPort [] 0x200#12 7#8 = [(0x200, 7#8)] := by decide

/-- EveryStepKeepsTheInvariant: a Running state with a written byte and a return address that meets the invariant, and
a step from it. -/
theorem test_witness_invariant : ∃ s t, State.Inv s ∧ step s = .next t :=
  ⟨due { State.reset with pc := 0x10FE#16, mem := [(0xFFF, 1#8)], sp := 1,
                          stack := Vector.replicate 16 0x206#16 }, _,
    { mem_wf := by decide
      pc_bound := by decide
      stack_bound := by decide
      halt_iff := by decide
      fault_legal := trivial
      halt_no_wait := by decide
      halt_no_report := by decide }, rfl⟩

/-- MemoryReadsTheLatestWrite, at the top of memory. -/
theorem test_witness_memory : Memory.wf [(0x200, 1#8)] = true ∧ 0xFFF ≤ 0xFFF ∧
    (Memory.write [(0x200, 1#8)] 0xFFF 2#8).read 0xFFF = 2#8 ∧
    (Memory.write [(0x200, 1#8)] 0xFFF 2#8).read 0x200 = 1#8 := by decide

/-- FaultsArePrecise: a fault of the fetch, and one of an instruction. -/
theorem test_witness_faults :
    (∃ s s0 t p, State.nextMove s = (.cycle p, s0) ∧ s.Running ∧ step s = .next t ∧ t.halt = true ∧
      s.pc = 0xFFF#16) ∧
    (∃ s s0 t p, State.nextMove s = (.cycle p, s0) ∧ s.Running ∧ step s = .next t ∧ t.halt = true ∧
      s.pc = 0x200#16) :=
  ⟨⟨due { State.reset with pc := 0xFFF#16 }, _, _, quiet, rfl, ⟨rfl, rfl⟩, rfl, rfl, rfl⟩,
   ⟨due { State.reset with index := 0xFFE#16, mem := [(0x200, 0xF0#8), (0x201, 0x33#8)] }, _, _, quiet, rfl,
    ⟨rfl, rfl⟩, rfl, rfl, rfl⟩⟩

/-- OnlySixInstructionsRaise: each of the six, at its first operand that raises. -/
theorem test_witness_raise :
    (∀ i ∈ [Instr.skipIfKeyDown 0#4, .skipIfKeyUp 0#4], ∃ t,
      exec i { State.reset with v := regs [(0, 0x10)] } = .next t ∧ t.halt = true) ∧
    (∃ t, exec (.storeBcd 0#4) { State.reset with index := 0xFFE#16 } = .next t ∧ t.halt = true) ∧
    (∀ i ∈ [Instr.dumpRegisters 1#4, .loadRegisters 1#4, .drawSprite 0#4 0#4 2#4], ∃ t,
      exec i { State.reset with index := 0xFFF#16 } = .next t ∧ t.halt = true) := by
  refine ⟨fun i h => ?_, ⟨_, rfl, rfl⟩, fun i h => ?_⟩ <;>
    simp only [List.mem_cons, List.not_mem_nil, or_false] at h
  · rcases h with rfl | rfl <;> exact ⟨_, rfl, rfl⟩
  · rcases h with rfl | rfl | rfl <;> exact ⟨_, rfl, rfl⟩

/-- OnlyStackErrorsAreReported and StackErrorsReportAndHold: both reports. -/
theorem test_witness_reports :
    (∃ t, exec .ret State.reset = .next t ∧ State.reset.diag = none ∧ t.diag ≠ none) ∧
    (∃ t, exec (.callSub 0#16) { State.reset with sp := 16 } = .next t ∧ t.diag ≠ none) :=
  ⟨⟨_, rfl, rfl, by decide⟩, ⟨_, rfl, by decide⟩⟩

/-- NoInstructionTouchesTheHostsSide: a next state of a state with HALT and REDRAW set. -/
theorem test_witness_host_side : ∃ t, exec .clearScreen { State.reset with halt := true, redraw := true } = .next t ∧
    ({ State.reset with halt := true, redraw := true } : State).halt = true := ⟨_, rfl, rfl⟩

/-- OnlyStoreBcdAndDumpWriteMemory: both change the highest byte of their range. -/
theorem test_witness_writers : State.reset.mem.wf = true ∧
    (∃ t, exec (.storeBcd 0#4) { State.reset with v := regs [(0, 1)], index := 0xFFD#16 } = .next t ∧
      t.readByte 0xFFF ≠ State.reset.readByte 0xFFF) ∧
    (∃ t, exec (.dumpRegisters 0xF#4) { State.reset with v := regs [(15, 1)], index := 0xFF0#16 } = .next t ∧
      t.readByte 0xFFF ≠ State.reset.readByte 0xFFF) :=
  ⟨rfl, ⟨_, rfl, by decide⟩, ⟨_, rfl, by decide⟩⟩

/-- OnlyCallSubAndRetTouchTheStack. -/
theorem test_witness_not_stack : Instr.jump 0x300#16 ≠ .ret ∧ ∀ addr, Instr.jump 0x300#16 ≠ .callSub addr :=
  ⟨by decide, fun _ => by simp⟩

/-- VfHasOnlyTheListedWriters: one of each line. -/
theorem test_witness_vf :
    (∃ t, exec (.addWithCarry 0#4 0#4) { State.reset with v := regs [(0, 0x80)] } = .next t ∧ t.reg 0xF#4 ≠ 0#8) ∧
    (∃ t, exec (.shiftRight 0#4) { State.reset with v := regs [(0, 1)] } = .next t ∧ t.reg 0xF#4 ≠ 0#8) ∧
    (∃ t, exec (.loadImmediate 0xF#4 1#8) State.reset = .next t ∧ t.reg 0xF#4 ≠ State.reset.reg 0xF#4) ∧
    (∃ t, exec (.copy 0xF#4 0#4) { State.reset with v := regs [(0, 1)] } = .next t ∧ t.reg 0xF#4 ≠ 0#8) ∧
    (∃ t, exec (.readDelayTimer 0xF#4) { State.reset with dt := 1#8 } = .next t ∧ t.reg 0xF#4 ≠ 0#8) :=
  ⟨⟨_, rfl, by decide⟩, ⟨_, rfl, by decide⟩, ⟨_, rfl, by decide⟩, ⟨_, rfl, by decide⟩, ⟨_, rfl, by decide⟩⟩

/-- ReturnPopsThePc, CallSubPushesAndJumps and ReturnComesBackBehindTheCall: the least and greatest SP of each. -/
theorem test_witness_sp : 0 < ({ State.reset with sp := 1 } : State).sp.val ∧
    0 < ({ State.reset with sp := 16 } : State).sp.val ∧ State.reset.sp.val < 16 ∧
    ({ State.reset with sp := 15 } : State).sp.val < 16 := by decide

/-- JumpsSetThePc: the highest encodable address, with the highest sum (V-F17). -/
theorem test_witness_jump : (0xFFF#16).toNat ≤ 0xFFF ∧ (indexedTarget 0xFFF#16 0xFF#8).toNat = 0x10FE := by decide

/-- KeySkipsTestTheKeyOrRaise: the last key and the first value above it. -/
theorem test_witness_key : (({ State.reset with v := regs [(0, 0xF)] } : State).reg 0#4).toNat ≤ 0xF ∧
    0xF < (({ State.reset with v := regs [(0, 0x10)] } : State).reg 0#4).toNat := by decide

/-- StoreBcdStoresTheDigits, DumpStoresV0ThroughVx, LoadReadsV0ThroughVx, LoadAfterDumpRestoresTheRegisters,
DrawSpriteFlipsAndFlagsCollision: ranges that end at 0xFFF, and a sprite of no rows anywhere. -/
theorem test_witness_in_range : State.reset.mem.wf = true ∧ (0xFFD#16).toNat + 2 ≤ 0xFFF ∧
    (0xFF0#16).toNat + (0xF#4).toNat ≤ 0xFFF ∧
    ((0xF#4).toNat = 0 ∨ (0xFF1#16).toNat + ((0xF#4).toNat - 1) ≤ 0xFFF) ∧
    ((0x0#4).toNat = 0 ∨ (0xFFFF#16).toNat + ((0x0#4).toNat - 1) ≤ 0xFFF) := by decide

/-- RangesAboveMemoryRaise: every clause with only its last byte above, and with all of them. -/
theorem test_witness_above : 0xFFF < (0xFFE#16).toNat + 2 ∧ 0xFFF < (0x1000#16).toNat + 2 ∧
    0xFFF < (0xFFF#16).toNat + (0x1#4).toNat ∧ 0xFFF < (0x1000#16).toNat + (0x0#4).toNat ∧
    0 < (0x2#4).toNat ∧ 0xFFF < (0xFFF#16).toNat + ((0x2#4).toNat - 1) ∧
    0 < (0x1#4).toNat ∧ 0xFFF < (0x1000#16).toNat + ((0x1#4).toNat - 1) := by decide

/-- WaitForKeyCapturesItsRegister. -/
theorem test_witness_not_halted : State.reset.halt = false := rfl

/-- DrawingTwiceRestoresTheScreen and SubtractUndoesAdd: registers that are not VF. -/
theorem test_witness_not_vf : (0x0#4 : Reg) ≠ 0xF#4 ∧ (0xE#4 : Reg) ≠ 0xF#4 ∧ (0x0#4 : Reg) ≠ 0xE#4 ∧
    State.reset.index.toNat + ((0x5#4).toNat - 1) ≤ 0xFFF := by decide

end Sys2Proof.Tests
end

namespace Sys2Proof.Machine

/-! ### Reset (R36, R147) -/

/-- Right after reset, memory reads as its reset contents. -/
theorem reset_readByte (a : Nat) : State.reset.readByte a = unlistedByte a := rfl

/-- The glyph table ends at or below 0x200, wherever it stands (R149). -/
theorem glyphBase_add_le : glyphBase + 80 ≤ 0x200 := by
  have : glyphBase < 433 := Config.glyphBase.isLt
  omega

/-- The reset contents at the glyph table are its bytes (R36, R149). -/
theorem unlistedByte_glyph (k : Nat) (hk : k < 80) : unlistedByte (glyphBase + k) = glyphByte k := by
  have hb := glyphBase_add_le
  have hin : glyphBase ≤ glyphBase + k ∧ glyphBase + k < glyphBase + Config.glyphSize :=
    ⟨by omega, Nat.add_lt_add_left hk _⟩
  rw [unlistedByte, if_pos (by omega), if_pos hin, Nat.add_sub_cancel_left]

/-- The reset contents outside the glyph table are zero (R36). -/
theorem unlistedByte_of_not_glyph (a : Nat) (ha : ¬ (glyphBase ≤ a ∧ a < glyphBase + 80)) :
    unlistedByte a = 0#8 := by
  unfold unlistedByte
  split
  · exact if_neg ha
  · rfl

/-- Settles O18: every field of the reset state by its definition, memory by the reset contents. -/
theorem resetStateHasTheSpecsValues : Obligations.ResetStateHasTheSpecsValues := by
  have hreg : ∀ r, State.reset.reg r = 0#8 := fun r => by simp [State.reg, State.reset]
  have hstack : ∀ k : Fin 16, State.reset.stack[k] = 0x0000#16 := fun k => by simp [State.reset]
  have hcell : ∀ x y, State.reset.cell x y = false := fun x y => by
    simp [State.cell, Framebuffer.cell, State.reset]
  exact ⟨hreg, rfl, rfl, hstack, rfl, hcell, rfl, rfl, rfl, rfl, rfl, rfl, rfl, rfl,
    fun k hk => (reset_readByte _).trans (unlistedByte_glyph k hk),
    fun a _ ha => (reset_readByte a).trans (unlistedByte_of_not_glyph a ha), glyphBase_add_le⟩

/-- Settles O21: memory with nothing listed, PC at 0x200, an empty stack, no fault, no wait and no report. -/
theorem resetMeetsTheInvariant : Obligations.ResetMeetsTheInvariant where
  mem_wf := rfl
  pc_bound := by decide
  stack_bound k := by simp [State.reset]
  halt_iff := by simp [State.reset]
  fault_legal := trivial
  halt_no_wait _ := rfl
  halt_no_report _ := rfl

/-! ### The decoder answers encodable instructions only (R57, R59) -/

theorem decode0_wf (w : Word) : (decode0 w).wf = true := by
  have hn := Laws.nnField_toNat w
  have ha := Laws.addrField_toNat w
  unfold decode0
  split
  · rfl
  · split
    · rfl
    · rename_i hE0 hEE
      have h0 : (nnField w).toNat ≠ 0xE0 := fun e => hE0 (BitVec.eq_of_toNat_eq e)
      have h1 : (nnField w).toNat ≠ 0xEE := fun e => hEE (BitVec.eq_of_toNat_eq e)
      have hlow : callLowByteOk (addrField w) = true := by
        simp only [callLowByteOk, Bool.and_eq_true, decide_eq_true_eq]; omega
      simp [Instr.wf, Laws.addrOk_addrField, hlow]

theorem decode8_wf {w : Word} {i : Instr} (h : decode8 w = .ok i) : i.wf = true := by
  unfold decode8 at h
  split at h <;> cases h <;> rfl

theorem decodeE_wf {w : Word} {i : Instr} (h : decodeE w = .ok i) : i.wf = true := by
  unfold decodeE at h
  split at h <;> cases h <;> rfl

theorem decodeF_wf {w : Word} {i : Instr} (h : decodeF w = .ok i) : i.wf = true := by
  unfold decodeF at h
  split at h <;> cases h <;> rfl

/-- What the decoder answers is well formed: an address operand is 12 bits of the word, and the 0 family gives Call
only the words that are not ClearScreen's or Return's. -/
theorem decode_wf {w : Word} {i : Instr} (h : decode w = .ok i) : i.wf = true := by
  unfold decode at h
  split at h
  case h_1 => cases h; exact decode0_wf w
  case h_9 => exact decode8_wf h
  case h_15 => exact decodeE_wf h
  case h_16 => exact decodeF_wf h
  all_goals
    cases h
    simp [Instr.wf, Laws.addrOk_addrField]

/-! ### What keeps the invariant -/

/-- JumpIndexed from an encodable address reaches 0x10FE at most (R20, R99). -/
theorem indexedTarget_le {addr : Word} (h : addr.toNat ≤ 0xFFF) (b : Byte) :
    (indexedTarget addr b).toNat ≤ 0x10FE := by
  have := b.isLt
  simp only [indexedTarget, BitVec.toNat_ofNat]
  omega

/-- Taking the host's next move touches nothing the invariant speaks of. -/
theorem State.Inv.nextMove {s s0 : State} {m : HostMove} (hs : s.Inv) (h : s.nextMove = (m, s0)) : s0.Inv := by
  unfold State.nextMove at h
  split at h <;> (cases h; exact { hs with })

/-- The ports of a cycle: the report of the cycle before is gone. -/
theorem State.Inv.latchPorts {s : State} (hs : s.Inv) (p : CyclePorts) : (s.latchPorts p).Inv :=
  { hs with halt_no_report := fun _ => rfl }

theorem State.Inv.cycleStart {s : State} (hs : s.Inv) (p : CyclePorts) : (cycleStart s p).Inv :=
  { hs with halt_no_report := fun _ => rfl }

theorem State.Inv.tick {s : State} (hs : s.Inv) : s.tick.Inv := { hs with }

theorem State.Inv.endCycle {s : State} (hs : s.Inv) : s.endCycle.Inv := by
  unfold State.endCycle
  split
  · exact hs
  · exact hs.tick

theorem State.Inv.advance {s : State} (hs : s.Inv) : (s.apply .advance).Inv :=
  { hs with pc_bound := (adv_le s.pc 2).trans (by decide) }

theorem State.Inv.resolve {s : State} (hs : s.Inv) (r : Reg) (k : BitVec 4) : (s.resolve r k).Inv :=
  { hs with pc_bound := (adv_le s.pc 2).trans (by decide), halt_no_wait := fun _ => rfl }

/-- A report stands beside no fault as long as the machine is not halted (R136). -/
theorem State.Inv.report {s : State} (hs : s.Inv) (h : s.halt = false) (r : Report) : (s.report r).Inv :=
  { hs with halt_no_report := fun ht => absurd ht (by simp [h]) }

/-- A legal fault in a state with no key wait and no report (R136, R137). -/
theorem State.Inv.raise {s : State} (hs : s.Inv) {f : FaultRecord} (hf : f ≠ .noFault) (hl : f.Legal)
    (ha : s.awaitKey = none) (hd : s.diag = none) : (s.raise f).Inv :=
  { hs with
    halt_iff := iff_of_true rfl hf
    fault_legal := hl
    halt_no_wait := fun _ => ha
    halt_no_report := fun _ => hd }

/-- A reset, in whatever state it is asserted, with any ROM (R147, R151). -/
theorem inv_assertReset (s : State) (rom : Rom) : (s.assertReset rom).Inv :=
  { resetMeetsTheInvariant with mem_wf := wf_loadAll _ _ rfl }

/-! ### What an instruction keeps -/

theorem Plain.mem_wf {i : Instr} {s t : State} (h : Plain i s t) (hw : s.mem.wf = true) : t.mem.wf = true := by
  obtain e | ⟨bs, e, -⟩ := h.mem
  · rw [e]; exact hw
  · rw [e]; exact wf_writeBytes bs _ _ hw

/-- A call pushes a value of `adv`, which lies in memory (R98). -/
theorem Plain.stack_bound {i : Instr} {s t : State} (h : Plain i s t)
    (hs : ∀ k : Fin 16, s.stack[k].toNat ≤ 0xFFF) (k : Fin 16) : t.stack[k].toNat ≤ 0xFFF := by
  obtain e | ⟨-, j, hj, e⟩ := h.stack
  · rw [e]; exact hs k
  · rw [e, Fin.getElem_fin, Vector.getElem_set]
    split
    · exact adv_le s.pc 2
    · exact hs k

/-- Every encodable instruction leaves PC at most at 0x10FE (R20). -/
theorem Plain.pc_bound {i : Instr} {s t : State} (h : Plain i s t) (hi : i.wf = true) (hs : s.Inv) :
    t.pc.toNat ≤ 0x10FE := by
  obtain e | e | ⟨k, e⟩ | ⟨addr, rfl | rfl, e⟩ | ⟨addr, rfl, e⟩ := h.pc
  · omega
  · rw [e]; exact hs.pc_bound
  · rw [e]; exact (hs.stack_bound k).trans (by decide)
  · have : addr.toNat ≤ 0xFFF := by simpa [Instr.wf, addrOk] using hi
    rw [e]; omega
  · have : addr.toNat ≤ 0xFFF := by simpa [Instr.wf, addrOk] using hi
    rw [e]; omega
  · rw [e]; exact indexedTarget_le (by simpa [Instr.wf, addrOk] using hi) _

/-- An encodable instruction of a machine that is not halted keeps the invariant when it raises nothing. -/
theorem Plain.inv {i : Instr} {s t : State} (h : Plain i s t) (hi : i.wf = true) (hs : s.Inv)
    (hrun : s.halt = false) : t.Inv where
  mem_wf := h.mem_wf hs.mem_wf
  pc_bound := h.pc_bound hi hs
  stack_bound := h.stack_bound hs.stack_bound
  halt_iff := by rw [h.halt, h.fault]; exact hs.halt_iff
  fault_legal := by rw [h.fault]; exact hs.fault_legal
  halt_no_wait ht := absurd ht (by simp [h.halt, hrun])
  halt_no_report ht := absurd ht (by simp [h.halt, hrun])

/-- An encodable instruction keeps the invariant from the start state of a Running cycle. -/
theorem exec_keeps_inv {i : Instr} {s t : State} (hi : i.wf = true) (hs : s.Inv) (hrun : s.Running)
    (hd : s.diag = none) (h : exec i s = .next t) : t.Inv := by
  obtain ⟨hhalt, hwait⟩ := hrun
  obtain ⟨f, hf, rfl⟩ | hp := exec_cases i s t h
  · exact hs.raise hf.ne_noFault hf.legal hwait hd
  · exact hp.inv hi hs hhalt

/-! ### What every step keeps -/

/-- The info of a fetch fault lies above memory (R74). -/
theorem fetchFault_legal (pc : Word) :
    (FaultRecord.memoryBounds (if 0xFFF < pc.toNat then pc else 0x1000#16)).Legal := by
  simp only [FaultRecord.Legal]
  split
  · assumption
  · decide

/-- The start state of a cycle is Running when the state before it is. -/
theorem running_cycleStart {s s0 : State} {p : CyclePorts} (hm : s.nextMove = (.cycle p, s0)) (h : s.Running) :
    (cycleStart s0 p).Running := by
  rw [nextMove_cycle hm]; exact h

/-- A Running cycle keeps the invariant: it faults in the fetch, reports an unknown word, or runs an instruction. -/
theorem running_step_keeps_inv {s s0 t : State} {p : CyclePorts} (hm : s.nextMove = (.cycle p, s0))
    (hs : s.Inv) (hrun : s.Running) (h : step s = .next t) : t.Inv := by
  have h0 : (cycleStart s0 p).Inv := (hs.nextMove hm).cycleStart p
  have hr0 := running_cycleStart hm hrun
  obtain ⟨-, e⟩ | ⟨-, -, e⟩ | ⟨-, i, u, hi, hu, e⟩ := step_running_cases hm hrun <;>
    (rw [e] at h; cases h)
  · exact h0.raise (by simp) (fetchFault_legal s.pc) hr0.2 rfl
  · exact (h0.report hr0.1 _).advance.tick
  · exact (exec_keeps_inv (decode_wf hi) h0 hr0 rfl hu).endCycle

/-- A cycle in AwaitingKey keeps the invariant, whether or not a key event ends the wait (R81, R85). -/
theorem wait_step_keeps_inv {s s0 t : State} {p : CyclePorts} {r : Reg} (hm : s.nextMove = (.cycle p, s0))
    (hs : s.Inv) (hhalt : s.halt = false) (hwait : s.awaitKey = some r) (h : step s = .next t) : t.Inv := by
  have h0 : (cycleStart s0 p).Inv := (hs.nextMove hm).cycleStart p
  rw [step_of_wait hm hhalt hwait] at h
  split at h <;> cases h
  · exact h0.resolve r _
  · exact h0

/-- Settles O22, by the cases of the host's move and of the cycle driver. -/
theorem everyStepKeepsTheInvariant : Obligations.EveryStepKeepsTheInvariant := by
  intro s t hs h
  match hm : s.nextMove with
  | (.reset rom, s0) =>
    rw [step_of_reset hm] at h; cases h
    exact inv_assertReset s0 rom
  | (.cycle p, s0) =>
    cases hhalt : s.halt with
    | true =>
      rw [step_of_halted hm hhalt] at h; cases h
      exact (hs.nextMove hm).latchPorts p
    | false =>
      cases hwait : s.awaitKey with
      | some r => exact wait_step_keeps_inv hm hs hhalt hwait h
      | none => exact running_step_keeps_inv hm hs ⟨hhalt, hwait⟩ h

/-! ### What no instruction touches (R26, R30, R31, R35) -/

/-- Settles O27: a fault changes only HALT and FAULT, and HALT to set; a plain effect leaves the host's side alone. -/
theorem noInstructionTouchesTheHostsSide : Obligations.NoInstructionTouchesTheHostsSide := by
  intro i s t h
  obtain ⟨f, -, rfl⟩ | hp := exec_cases i s t h
  · exact ⟨rfl, rfl, rfl, rfl, fun _ => rfl, id⟩
  · exact ⟨hp.keys, hp.rnd, hp.hostMoves, hp.draws, fun hh => hp.halt.trans hh, hp.redraw⟩

/-! ### Two runs side by side -/

/-- Both answers are next states, and the relation holds between them. -/
def BothNext (R : State → State → Prop) (a b : Result) : Prop :=
  ∃ t u, a = .next t ∧ b = .next u ∧ R t u

/-- Two guarded effects with the same check: both raise, or both take effect. -/
theorem bothNext_guarded {R : State → State → Prop} {s s' t t' : State} (f : Option FaultRecord)
    (hr : ∀ f, R (s.raise f) (s'.raise f)) (ht : R t t') : BothNext R (s.guarded f t) (s'.guarded f t') := by
  cases f with
  | some f => exact ⟨_, _, rfl, rfl, hr f⟩
  | none => exact ⟨_, _, rfl, rfl, ht⟩

/-- Two key skips on states with the same registers and the same KEYS: both raise, or both apply one directive. -/
theorem bothNext_keySkip {R : State → State → Prop} {s s' : State} (x : Reg) (c : Bool → Bool)
    (hv : s'.v = s.v) (hk : s'.keys = s.keys) (hr : ∀ f, R (s.raise f) (s'.raise f))
    (ha : ∀ d, R (s.apply d) (s'.apply d)) : BothNext R (s.keySkip x c) (s'.keySkip x c) := by
  have hreg : s'.reg x = s.reg x := by simp only [State.reg, hv]
  have hdown : ∀ k, s'.keyDown k = s.keyDown k := fun k => by simp only [State.keyDown, hk]
  unfold State.keySkip
  rw [hreg]
  cases keyOperand (s.reg x) with
  | error f => exact ⟨_, _, rfl, rfl, hr f⟩
  | ok k => exact ⟨_, _, rfl, rfl, by rw [hdown k]; exact ha _⟩

/-! ### STACK is read and written by Return and CallSub only (R22) -/

/-- The STACK of t is still `own`, and u is t with `other` in its place. -/
def StackSwapped (own other : Vector Word 16) (t u : State) : Prop :=
  t.stack = own ∧ u = { t with stack := other }

theorem stackSwapped_apply {own other : Vector Word 16} {t u : State} (h : StackSwapped own other t u)
    (d : Directive) : StackSwapped own other (t.apply d) (u.apply d) := by
  obtain ⟨rfl, rfl⟩ := h
  cases d <;> exact ⟨rfl, rfl⟩

/-- Any other instruction does the same on another STACK, and leaves it alone. -/
theorem exec_stackSwapped (i : Instr) (s : State) (other : Vector Word 16) (hret : i ≠ .ret)
    (hcall : ∀ addr, i ≠ .callSub addr) :
    BothNext (StackSwapped s.stack other) (exec i s) (exec i { s with stack := other }) := by
  have hraise : ∀ f, StackSwapped s.stack other (s.raise f) ({ s with stack := other }.raise f) :=
    fun f => ⟨rfl, rfl⟩
  have happly : ∀ d, StackSwapped s.stack other (s.apply d) ({ s with stack := other }.apply d) :=
    stackSwapped_apply ⟨rfl, rfl⟩
  cases i
  case ret => exact absurd rfl hret
  case callSub addr => exact absurd rfl (hcall addr)
  case skipIfEqual | skipIfNotEqual | skipIfRegistersEqual | skipIfRegistersNotEqual =>
    exact ⟨_, _, rfl, rfl, happly _⟩
  case skipIfKeyDown x => exact bothNext_keySkip x (fun down => down) rfl rfl hraise happly
  case skipIfKeyUp x => exact bothNext_keySkip x (fun down => !down) rfl rfl hraise happly
  case storeBcd | dumpRegisters | loadRegisters | drawSprite => exact bothNext_guarded _ hraise ⟨rfl, rfl⟩
  all_goals exact ⟨_, _, rfl, rfl, rfl, rfl⟩

/-- Settles O29: the two runs side by side, one on each STACK. -/
theorem onlyCallSubAndRetTouchTheStack : Obligations.OnlyCallSubAndRetTouchTheStack := by
  intro i s other hret hcall
  obtain ⟨t, _, ht, hu, hstack, rfl⟩ := exec_stackSwapped i s other hret hcall
  exact ⟨t, ht, hstack, hu⟩

/-! ### ST and REDRAW are read by no instruction (R25, R30) -/

/-- u is t but for ST and REDRAW. -/
def SameButStRedraw (t u : State) : Prop := ∃ st redraw, u = { t with st := st, redraw := redraw }

theorem SameButStRedraw.apply {t u : State} (h : SameButStRedraw t u) (d : Directive) :
    SameButStRedraw (t.apply d) (u.apply d) := by
  obtain ⟨a, b, rfl⟩ := h
  cases d <;> exact ⟨a, b, rfl⟩

theorem SameButStRedraw.frame {t u : State} (h : SameButStRedraw t u) :
    Frame (fun q => q = .st ∨ q = .redraw) t u := by
  obtain ⟨a, b, rfl⟩ := h
  intro q hq
  cases q
  case st => exact absurd (.inl rfl) hq
  case redraw => exact absurd (.inr rfl) hq
  all_goals rfl

/-- Every instruction does the same on another ST and REDRAW, but for what it leaves in ST and REDRAW. -/
theorem exec_sameButStRedraw (i : Instr) (s : State) (st' : Byte) (redraw' : Bool) :
    BothNext SameButStRedraw (exec i s) (exec i { s with st := st', redraw := redraw' }) := by
  have hraise : ∀ f, SameButStRedraw (s.raise f) ({ s with st := st', redraw := redraw' }.raise f) :=
    fun f => ⟨_, _, rfl⟩
  have happly : ∀ d, SameButStRedraw (s.apply d) ({ s with st := st', redraw := redraw' }.apply d) :=
    SameButStRedraw.apply ⟨_, _, rfl⟩
  cases i
  case ret =>
    by_cases h : 0 < s.sp.val
    · exact ⟨_, _, dif_pos h, dif_pos h, _, _, rfl⟩
    · exact ⟨_, _, dif_neg h, dif_neg h, _, _, rfl⟩
  case callSub =>
    by_cases h : s.sp.val < 16
    · exact ⟨_, _, dif_pos h, dif_pos h, _, _, rfl⟩
    · exact ⟨_, _, dif_neg h, dif_neg h, _, _, rfl⟩
  case skipIfEqual | skipIfNotEqual | skipIfRegistersEqual | skipIfRegistersNotEqual =>
    exact ⟨_, _, rfl, rfl, happly _⟩
  case skipIfKeyDown x => exact bothNext_keySkip x (fun down => down) rfl rfl hraise happly
  case skipIfKeyUp x => exact bothNext_keySkip x (fun down => !down) rfl rfl hraise happly
  case storeBcd | dumpRegisters | loadRegisters | drawSprite => exact bothNext_guarded _ hraise ⟨_, _, rfl⟩
  all_goals exact ⟨_, _, rfl, rfl, _, _, rfl⟩

/-- Settles O30: the two runs side by side, then the frame of what they differ in. -/
theorem noInstructionReadsSoundTimerOrRedraw : Obligations.NoInstructionReadsSoundTimerOrRedraw := by
  intro i s st' redraw'
  obtain ⟨t, u, ht, hu, h⟩ := exec_sameButStRedraw i s st' redraw'
  exact ⟨t, u, ht, hu, h.frame⟩

/-! ### The registers an instruction may write (R32, 43_register_ops.md) -/

/-- The instruction names q as its destination, or q is VF and the instruction writes a flag. -/
def MayWriteReg (q : Reg) : Instr → Prop
  | .loadImmediate x _ => q = x
  | .addImmediateNoFlag x _ => q = x
  | .randomMask x _ => q = x
  | .copy x _ => q = x
  | .bitwiseOr x _ => q = x
  | .bitwiseAnd x _ => q = x
  | .bitwiseXor x _ => q = x
  | .readDelayTimer x => q = x
  | .loadRegisters x => q.toNat ≤ x.toNat
  | .addWithCarry x _ => q = regF ∨ q = x
  | .subtractForward x _ => q = regF ∨ q = x
  | .subtractReverse x _ => q = regF ∨ q = x
  | .shiftRight x => q = regF ∨ q = x
  | .shiftLeft x => q = regF ∨ q = x
  | .addRegisterToIndex _ => q = regF
  | .drawSprite _ _ _ => q = regF
  | _ => False

theorem reg_setReg_of_ne {s : State} {r q : Reg} (b : Byte) (h : q ≠ r) : (s.setReg r b).reg q = s.reg q := by
  rw [reg_setReg, if_neg h]

theorem reg_setFlag_of_ne {s : State} {q : Reg} (f : Bool) (h : q ≠ regF) : (s.setFlag f).reg q = s.reg q :=
  reg_setReg_of_ne _ h

theorem reg_setRegThenFlag_of_ne {s : State} {r q : Reg} (b : Byte) (f : Bool) (h : ¬ (q = regF ∨ q = r)) :
    (s.setRegThenFlag r b f).reg q = s.reg q := by
  rw [not_or] at h
  rw [reg_setRegThenFlag, if_neg h.1, if_neg h.2]

/-- A guarded effect that leaves a register alone, whether or not the check fails. -/
theorem reg_guarded {s t u : State} {f : Option FaultRecord} {q : Reg} (h : s.guarded f t = .next u)
    (ht : t.reg q = s.reg q) : u.reg q = s.reg q := by
  cases f <;> cases h
  · exact ht
  · rfl

theorem reg_keySkip {s u : State} {x q : Reg} {c : Bool → Bool} (h : s.keySkip x c = .next u) :
    u.reg q = s.reg q := by
  unfold State.keySkip at h
  split at h <;> cases h
  · rfl
  · exact reg_apply ..

/-- A register that the instruction may not write keeps its value. -/
theorem reg_exec_of_not_mayWriteReg {i : Instr} {s t : State} {q : Reg} (h : exec i s = .next t)
    (hq : ¬ MayWriteReg q i) : t.reg q = s.reg q := by
  cases i
  case ret | callSub =>
    simp only [exec, execRet, execCallSub] at h
    split at h <;> (cases h; rfl)
  case skipIfKeyDown x => exact reg_keySkip (c := fun down => down) h
  case skipIfKeyUp x => exact reg_keySkip (c := fun down => !down) h
  case storeBcd | dumpRegisters => exact reg_guarded h rfl
  case loadRegisters => exact reg_guarded h (by rw [reg_apply, reg_loadRegsThrough]; exact if_neg hq)
  case drawSprite => exact reg_guarded h (by rw [reg_apply]; exact reg_setFlag_of_ne _ hq)
  all_goals
    cases h
    rw [reg_apply]
  case addRegisterToIndex => exact reg_setFlag_of_ne _ hq
  case addWithCarry | subtractForward | subtractReverse | shiftRight | shiftLeft =>
    exact reg_setRegThenFlag_of_ne _ _ hq
  case loadImmediate | addImmediateNoFlag | copy | bitwiseOr | bitwiseAnd | bitwiseXor | readDelayTimer | randomMask =>
    exact reg_setReg_of_ne _ hq
  all_goals rfl

/-- LoadRegisters reaches register 15 only as LoadRegisters(15). -/
theorem eq_regF_of_le {x : Reg} (h : regF.toNat ≤ x.toNat) : x = regF := by
  apply BitVec.eq_of_toNat_eq
  have : regF.toNat = 15 := rfl
  have := x.isLt
  omega

/-- Settles O31: the instructions that may write register 15 are the listed ones. -/
theorem vfHasOnlyTheListedWriters : Obligations.VfHasOnlyTheListedWriters := by
  intro i s t h hne
  have hw : MayWriteReg regF i := by
    by_contra hnot
    exact hne (reg_exec_of_not_mayWriteReg h hnot)
  cases i
  case loadRegisters x => simp [eq_regF_of_le hw, regF]
  case loadImmediate | addImmediateNoFlag | copy | bitwiseOr | bitwiseAnd | bitwiseXor | readDelayTimer | randomMask =>
    obtain rfl : regF = _ := hw
    simp [regF]
  case addWithCarry | subtractForward | subtractReverse | shiftRight | shiftLeft | addRegisterToIndex | drawSprite =>
    simp
  all_goals exact hw.elim

end Sys2Proof.Machine

namespace Sys2Proof.Machine

/-! ### Memory is plain storage (R44, R48) -/

/-- Settles O23: a write in memory is an insertion into the rising list, which induction on the list describes. -/
theorem memoryReadsTheLatestWrite : Obligations.MemoryReadsTheLatestWrite := by
  intro m a b v hw ha
  exact ⟨read_write m a b v hw ha, wf_write m a v hw⟩

/-! ### The memory an instruction may write (R39, R42) -/

/-- A byte that writing a list changes lies in the written range, and in memory. -/
theorem range_of_read_writeBytes_ne {bs : List Byte} {m : Memory} {a k : Nat} (hw : m.wf = true)
    (h : (m.writeBytes a bs).read k ≠ m.read k) : a ≤ k ∧ k < a + bs.length ∧ k ≤ 0xFFF := by
  have hin : a ≤ k ∧ k < a + bs.length := by
    by_contra hout
    exact h (read_writeBytes_of_not bs m a k hw hout)
  have htop : k ≤ 0xFFF := by
    by_contra habove
    exact h (read_writeBytes_above bs m a k hw (by omega))
  exact ⟨hin.1, hin.2, htop⟩

/-- A plain effect changes bytes of StoreBcd's and DumpRegisters' ranges only. -/
theorem Plain.range_of_readByte_ne {i : Instr} {s t : State} {a : Nat} (h : Plain i s t) (hw : s.mem.wf = true)
    (hne : t.readByte a ≠ s.readByte a) :
    s.index.toNat ≤ a ∧ a ≤ 0xFFF ∧
      ((∃ x, i = .storeBcd x ∧ a ≤ s.index.toNat + 2) ∨
        (∃ x, i = .dumpRegisters x ∧ a ≤ s.index.toNat + x.toNat)) := by
  unfold State.readByte at hne
  obtain hsame | ⟨bs, hmem, hwriter⟩ := h.mem
  · exact absurd (by rw [hsame]) hne
  · rw [hmem] at hne
    obtain ⟨hlow, hhigh, htop⟩ := range_of_read_writeBytes_ne hw hne
    refine ⟨hlow, htop, ?_⟩
    obtain ⟨x, hi, hlen⟩ | ⟨x, hi, hlen⟩ := hwriter
    · exact .inl ⟨x, hi, by omega⟩
    · exact .inr ⟨x, hi, by omega⟩

/-- Settles O28: a fault changes no byte, and a plain effect only those of the two instructions' ranges. -/
theorem onlyStoreBcdAndDumpWriteMemory : Obligations.OnlyStoreBcdAndDumpWriteMemory := by
  intro i s t a hw h hne
  obtain ⟨f, -, rfl⟩ | hplain := exec_cases i s t h
  · exact absurd rfl hne
  · exact hplain.range_of_readByte_ne hw hne

/-! ### An instruction that raises has no other effect (R42, R78, R104) -/

/-- `Raises` is not only where a fault can come from: wherever it holds, the instruction does raise. -/
theorem exec_of_raises {i : Instr} {s : State} {f : FaultRecord} (h : Raises i s f) :
    exec i s = .next (s.raise f) := by
  cases h
  case keyDown h => exact keySkip_error s _ (fun down => down) h
  case keyUp h => exact keySkip_error s _ (fun down => !down) h
  case bcd h => rw [exec, execStoreBcd, rangeFault_some h, guarded_some]
  case dump h => rw [exec, execDumpRegisters, rangeFault_some h, guarded_some]
  case load h => rw [exec, execLoadRegisters, rangeFault_some h, guarded_some]
  case draw h0 h => rw [exec, execDrawSprite, spriteFault_some h0 h, guarded_some]

/-- Settles O52: each clause is one of the cases in which an instruction raises. -/
theorem rangesAboveMemoryRaise : Obligations.RangesAboveMemoryRaise := by
  intro s
  exact ⟨fun _ h => exec_of_raises (.bcd h),
    fun _ h => ⟨exec_of_raises (.dump h), exec_of_raises (.load h)⟩,
    fun _ _ _ h0 h => exec_of_raises (.draw h0 h)⟩

end Sys2Proof.Machine

namespace Sys2Proof.Laws

/-! ### The two round trips of the encoder and the decoder (R56, R57, R67) -/

/-- A Call whose low byte is neither 0xE0 nor 0xEE is read back as that Call (R59). -/
theorem decode0_encodeAddr (op : BitVec 4) (addr : Word) (hwf : (Instr.call addr).wf = true) :
    decode0 (encodeAddr op addr) = .call addr := by
  obtain ⟨haddr, hE0, hEE⟩ : addrOk addr = true ∧ addr.toNat % 256 ≠ 0xE0 ∧ addr.toNat % 256 ≠ 0xEE := by
    simpa [Instr.wf, callLowByteOk] using hwf
  have hlow := nnField_encodeAddr_toNat op addr
  rw [decode0, if_neg (fun h => hE0 (by rw [← hlow, h]; rfl)), if_neg (fun h => hEE (by rw [← hlow, h]; rfl)),
    addrField_encodeAddr op addr haddr]

/-- Settles O1: Call needs its low byte, the other addresses their bound, and the rest only the fields of an encoded
word, grouped by the arm of the decoder that reads them. -/
theorem decodeOfEncodeIsTheInstruction : Obligations.DecodeOfEncodeIsTheInstruction := by
  intro i hwf
  cases i
  case call addr => simp [encode, decode, decode0_encodeAddr _ addr hwf]
  case clearScreen | ret => rfl
  case jump addr | callSub addr | jumpIndexed addr | setIndex addr =>
    simp [encode, decode, addrField_encodeAddr _ addr hwf]
  case skipIfEqual | skipIfNotEqual | loadImmediate | addImmediateNoFlag | randomMask | skipIfRegistersEqual |
      skipIfRegistersNotEqual | drawSprite =>
    simp [encode, decode]
  case skipIfKeyDown | skipIfKeyUp => simp [encode, decode, decodeE]
  case copy | bitwiseOr | bitwiseAnd | bitwiseXor | addWithCarry | subtractForward | subtractReverse | shiftRight |
      shiftLeft =>
    simp [encode, decode, decode8]
  case addRegisterToIndex | setIndexToGlyph | storeBcd | dumpRegisters | loadRegisters | readDelayTimer |
      setDelayTimer | setSoundTimer | waitForKey =>
    simp [encode, decode, decodeF]

/-- The word is the encoding of its instruction but for the bits that its row ignores (R56, R67). -/
def EncodesReadBits (w : Word) (i : Instr) : Prop := encode i = w &&& readMask i

theorem and_FFFF (w : Word) : w &&& 0xFFFF#16 = w := BitVec.and_allOnes

/-- Top nibble 0: ClearScreen and Return ignore bits 11-8, Call reads every bit (R59, D8). -/
theorem decode0_encodesReadBits {w : Word} (hop : opField w = 0x0#4) : EncodesReadBits w (decode0 w) := by
  unfold decode0 EncodesReadBits
  split
  next hlow => rw [readMask, and_F0FF, hop, hlow]; rfl
  next =>
    split
    next hlow => rw [readMask, and_F0FF, hop, hlow]; rfl
    next => rw [readMask, and_FFFF, encode, ← hop, encodeAddr_fields]

/-- Format XI reads the whole word: op, x and the low byte put it together again. -/
theorem encodeXI_of_fields {w : Word} {op : BitVec 4} {nn : Byte} (hop : opField w = op) (hnn : nnField w = nn) :
    encodeXI op (xField w) nn = w &&& 0xFFFF#16 := by
  rw [and_FFFF, ← hop, ← hnn, encodeXI_fields]

/-- Formats XY and XYN, where the low nibble is read: op, x, y and n put the word together again. -/
theorem encodeXY_of_fields {w : Word} {op n : BitVec 4} (hop : opField w = op) (hn : nField w = n) :
    encodeXY op (xField w) (yField w) n = w &&& 0xFFFF#16 := by
  rw [and_FFFF, ← hop, ← hn, encodeXY_fields]

theorem encodeAddr_of_opField {w : Word} {op : BitVec 4} (hop : opField w = op) :
    encodeAddr op (addrField w) = w &&& 0xFFFF#16 := by
  rw [and_FFFF, ← hop, encodeAddr_fields]

/-- Top nibble 8: the shifts ignore y, the other rows read every bit (R61). -/
theorem decode8_encodesReadBits {w : Word} {i : Instr} (hop : opField w = 0x8#4) (h : decode8 w = .ok i) :
    EncodesReadBits w i := by
  unfold decode8 at h
  split at h <;> cases h
  case h_7 hn | h_9 hn => rw [EncodesReadBits, readMask, and_FF0F, hop, hn, encode]
  all_goals exact encodeXY_of_fields hop ‹_›

theorem decodeE_encodesReadBits {w : Word} {i : Instr} (hop : opField w = 0xE#4) (h : decodeE w = .ok i) :
    EncodesReadBits w i := by
  unfold decodeE at h
  split at h <;> cases h
  all_goals exact encodeXI_of_fields hop ‹_›

theorem decodeF_encodesReadBits {w : Word} {i : Instr} (hop : opField w = 0xF#4) (h : decodeF w = .ok i) :
    EncodesReadBits w i := by
  unfold decodeF at h
  split at h <;> cases h
  all_goals exact encodeXI_of_fields hop ‹_›

/-- Every arm of the primary dispatch knows op; what it leaves to its last arm is top nibble 0xF (R58). -/
theorem decode_encodesReadBits {w : Word} {i : Instr} (h : decode w = .ok i) : EncodesReadBits w i := by
  have hnibble := nibble_cases (opField w)
  unfold decode at h
  split at h
  case h_1 hop => cases h; exact decode0_encodesReadBits hop
  case h_9 hop => exact decode8_encodesReadBits hop h
  case h_15 hop => exact decodeE_encodesReadBits hop h
  case h_16 => exact decodeF_encodesReadBits (by simp_all) h
  all_goals cases h
  -- an address (1, 2, A, B), x and nn (3, 4, 6, 7, C), x and y alone (5, 9), and all four fields (D)
  case h_2 hop | h_3 hop | h_11 hop | h_12 hop => exact encodeAddr_of_opField hop
  case h_4 hop | h_5 hop | h_7 hop | h_8 hop | h_13 hop => exact encodeXI_of_fields hop rfl
  case h_6 hop | h_10 hop => rw [EncodesReadBits, readMask, and_FFF0, hop, encode]
  case h_14 hop => exact encodeXY_of_fields hop rfl

/-- Settles O2, by the arms of the decoder: each fixes the fields its encoding puts together. -/
theorem encodeOfDecodeKeepsTheReadBits : Obligations.EncodeOfDecodeKeepsTheReadBits :=
  fun _ _ h => ⟨Machine.decode_wf h, decode_encodesReadBits h⟩

/-! ### The words with no instruction (R64) -/

theorem nnField_eq_iff (w : Word) (b : Byte) : nnField w = b ↔ w.toNat % 256 = b.toNat := by
  rw [← BitVec.toNat_inj, nnField_toNat]

theorem opField_eq_iff (w : Word) (n : BitVec 4) : opField w = n ↔ w.toNat / 4096 = n.toNat := by
  rw [← BitVec.toNat_inj, opField_toNat]

/-- Top nibble 8 (R61): the unknown low nibbles. -/
theorem decode8_error_iff (w : Word) :
    decode8 w = .error (.unknownOpcode w) ↔ w.toNat % 16 ∈ [0x8, 0x9, 0xA, 0xB, 0xC, 0xD, 0xF] := by
  have hnibble := nibble_cases (nField w)
  rw [← nField_toNat]
  unfold decode8
  split
  case h_10 => exact iff_of_true rfl (by simp_all [BitVec.toNat_eq])
  all_goals exact iff_of_false (by simp) (by simp [*])

/-- Top nibble E (R62): every low byte but two. -/
theorem decodeE_error_iff (w : Word) :
    decodeE w = .error (.unknownOpcode w) ↔ w.toNat % 256 ∉ [0x9E, 0xA1] := by
  rw [← nnField_toNat]
  unfold decodeE
  split
  case h_3 => exact iff_of_true rfl (by simp_all [BitVec.toNat_eq])
  all_goals exact iff_of_false (by simp) (by simp [*])

/-- Top nibble F (R63): every low byte but nine. -/
theorem decodeF_error_iff (w : Word) :
    decodeF w = .error (.unknownOpcode w) ↔
      w.toNat % 256 ∉ [0x07, 0x0A, 0x15, 0x18, 0x1E, 0x29, 0x33, 0x55, 0x65] := by
  rw [← nnField_toNat]
  unfold decodeF
  split
  case h_10 => exact iff_of_true rfl (by simp_all [BitVec.toNat_eq])
  all_goals exact iff_of_false (by simp) (by simp [*])

/-- Only the secondary dispatch of 8, E and F meets unknown words (R58, R64). -/
theorem decode_error_iff (w : Word) :
    decode w = .error (.unknownOpcode w) ↔
      (opField w = 0x8#4 ∧ decode8 w = .error (.unknownOpcode w)) ∨
      (opField w = 0xE#4 ∧ decodeE w = .error (.unknownOpcode w)) ∨
      (opField w = 0xF#4 ∧ decodeF w = .error (.unknownOpcode w)) := by
  have hnibble := nibble_cases (opField w)
  unfold decode
  split
  case h_9 hop | h_15 hop => simp [hop]
  case h_16 =>
    have hop : opField w = 0xF#4 := by simp_all
    simp [hop]
  all_goals exact iff_of_false (by simp) (by simp [*])

/-- Settles O3: the families 8, E and F on their own, and the fields they read as numbers. -/
theorem unknownOpcodeWordsAreExactlyTheListed : Obligations.UnknownOpcodeWordsAreExactlyTheListed := by
  intro w
  constructor
  · cases hd : decode w with
    | error e => exact .inl (by rw [Machine.decode_error hd])
    | ok i => exact .inr ⟨i, rfl⟩
  · rw [decode_error_iff, opField_eq_iff, opField_eq_iff, opField_eq_iff, decode8_error_iff, decodeE_error_iff,
      decodeF_error_iff]
    rfl

/-! ### The 0 family (R59) -/

theorem decode_of_lt {w : Word} (h : w.toNat < 0x1000) : decode w = .ok (decode0 w) := by
  have hop : opField w = 0x0#4 := (opField_eq_iff w 0x0#4).2 (Nat.div_eq_of_lt h)
  simp [decode, hop]

theorem addrField_of_lt {w : Word} (h : w.toNat < 0x1000) : addrField w = w := by
  rw [← BitVec.toNat_inj, addrField_toNat, Nat.mod_eq_of_lt h]

/-- Settles O4: such a word has op nibble 0, and its address field is the word. -/
theorem zeroFamilyIsDecidedByTheLowByte : Obligations.ZeroFamilyIsDecidedByTheLowByte := by
  intro n hn
  have htoNat : (BitVec.ofNat 16 n).toNat = n := Nat.mod_eq_of_lt (by omega)
  have hlt : (BitVec.ofNat 16 n).toNat < 0x1000 := htoNat.symm ▸ hn
  rw [decode_of_lt hlt, decode0, addrField_of_lt hlt]
  simp only [nnField_eq_iff, htoNat]
  rfl

end Sys2Proof.Laws

namespace Sys2Proof.Machine

/-! ### The start state of a cycle, read from the state before it (R73, R82) -/

section
variable {s s0 : State} {p : CyclePorts}

theorem cycleStart_pc (hm : s.nextMove = (.cycle p, s0)) : (cycleStart s0 p).pc = s.pc := by
  rw [nextMove_cycle hm]; rfl

theorem cycleStart_dt (hm : s.nextMove = (.cycle p, s0)) : (cycleStart s0 p).dt = s.dt := by
  rw [nextMove_cycle hm]; rfl

theorem cycleStart_st (hm : s.nextMove = (.cycle p, s0)) : (cycleStart s0 p).st = s.st := by
  rw [nextMove_cycle hm]; rfl

theorem cycleStart_reg (hm : s.nextMove = (.cycle p, s0)) (x : Reg) : (cycleStart s0 p).reg x = s.reg x := by
  rw [nextMove_cycle hm]; rfl

theorem cycleStart_redraw_iff (hm : s.nextMove = (.cycle p, s0)) :
    (cycleStart s0 p).redraw = true ↔ s.redraw = true ∧ p.redrawAck = false := by
  rw [nextMove_cycle hm]; simp [cycleStart]

end

/-! ### The ends of a cycle, said once (R73, R75, R78, R81, R85, R86) -/

theorem endCycle_of_not_halted {u : State} (h : u.halt = false) : u.endCycle = u.tick := by
  unfold State.endCycle; rw [h]; rfl

/-- How a Running cycle can end from its start state `c`, `w` being the word at PC. -/
inductive RunningEnd (w : Word) (c : State) : State → Prop where
  /-- The fetch or the instruction raised a fault, and nothing else landed. -/
  | fault (f : FaultRecord) (hf : f ≠ .noFault) : RunningEnd w c (c.raise f)
  /-- The word has no instruction. -/
  | unknown (hw : decode w = .error (.unknownOpcode w)) :
    RunningEnd w c ((c.report (.unknownOpcode w)).apply .advance).tick
  /-- The instruction ran without a fault, and then came the tick. -/
  | plain (i : Instr) (u : State) (hw : decode w = .ok i) (hu : Plain i c u) : RunningEnd w c u.tick

theorem running_step_end {s s0 t : State} {p : CyclePorts} (hm : s.nextMove = (.cycle p, s0)) (hrun : s.Running)
    (h : step s = .next t) : RunningEnd (fetchedWord s) (cycleStart s0 p) t := by
  obtain ⟨hhalt, -⟩ := running_cycleStart hm hrun
  obtain ⟨-, e⟩ | ⟨-, hd, e⟩ | ⟨-, i, u, hi, hu, e⟩ := step_running_cases hm hrun <;>
    (rw [e] at h; cases h)
  · exact .fault _ (by simp)
  · exact .unknown hd
  · obtain ⟨f, hf, rfl⟩ | hplain := exec_cases i _ u hu
    · exact .fault f hf.ne_noFault
    · rw [endCycle_of_not_halted (hplain.halt.trans hhalt)]
      exact .plain i u hi hplain

/-- Of the ends of a Running cycle only the fault is halted. -/
theorem RunningEnd.fault_of_halted {w : Word} {c t : State} (h : RunningEnd w c t) (hc : c.halt = false)
    (ht : t.halt = true) : ∃ f : FaultRecord, f ≠ .noFault ∧ t = c.raise f := by
  cases h with
  | fault f hf => exact ⟨f, hf, rfl⟩
  | unknown => simp [hc] at ht
  | plain i u hw hu => simp [hu.halt, hc] at ht

theorem wait_step_end {s s0 t : State} {p : CyclePorts} {r : Reg} (hm : s.nextMove = (.cycle p, s0))
    (hhalt : s.halt = false) (hwait : s.awaitKey = some r) (h : step s = .next t) :
    t = cycleStart s0 p ∨ ∃ k, t = (cycleStart s0 p).resolve r k := by
  rw [step_of_wait hm hhalt hwait] at h
  split at h <;> cases h
  · exact .inr ⟨_, rfl⟩
  · exact .inl rfl

/-! ### Timers (R79, R80) -/

theorem Plain.dt_tick {i : Instr} {c u : State} (h : Plain i c u) :
    ((∀ x, i ≠ .setDelayTimer x) → u.tick.dt.toNat = c.dt.toNat - 1) ∧
      ∀ x, i = .setDelayTimer x → u.tick.dt.toNat = (c.reg x).toNat - 1 :=
  ⟨fun hi => by rw [tick_dt, countDown_toNat, h.dt hi], fun x hi => by rw [tick_dt, countDown_toNat, h.dt_set x hi]⟩

theorem Plain.st_tick {i : Instr} {c u : State} (h : Plain i c u) :
    ((∀ x, i ≠ .setSoundTimer x) → u.tick.st.toNat = c.st.toNat - 1) ∧
      ∀ x, i = .setSoundTimer x → u.tick.st.toNat = (c.reg x).toNat - 1 :=
  ⟨fun hi => by rw [tick_st, countDown_toNat, h.st hi], fun x hi => by rw [tick_st, countDown_toNat, h.st_set x hi]⟩

/-- A cycle that does not start in Running leaves both timers alone (R81, R85, R86). -/
theorem timers_of_not_running {s s0 t : State} {p : CyclePorts} (hm : s.nextMove = (.cycle p, s0))
    (h : step s = .next t) (hnot : s.halt = true ∨ s.awaitKey ≠ none) : t.dt = s.dt ∧ t.st = s.st := by
  cases hhalt : s.halt with
  | true =>
    rw [step_of_halted hm hhalt, nextMove_cycle hm] at h; cases h
    exact ⟨rfl, rfl⟩
  | false =>
    obtain ⟨r, hwait⟩ := Option.ne_none_iff_exists'.1 (hnot.resolve_left (by simp [hhalt]))
    obtain rfl | ⟨k, rfl⟩ := wait_step_end hm hhalt hwait h <;>
      simp [cycleStart_dt hm, cycleStart_st hm]

/-- Settles O15: a cycle that faults or does not run leaves the timers alone, and the other two ends of a Running cycle
are ticks. -/
theorem timersTickOncePerRunningCycle : Obligations.TimersTickOncePerRunningCycle := by
  intro s s0 t p hm h
  refine ⟨fun hrun hhalt => ?_, timers_of_not_running hm h, fun hrun hhalt => ?_⟩
  · rw [← cycleStart_dt hm, ← cycleStart_st hm]
    simp only [← cycleStart_reg hm]
    cases running_step_end hm hrun h with
    | fault => cases hhalt
    | unknown hw => simp [hw]
    | plain i u hw hu =>
      simp only [hw, ne_eq, Except.ok.injEq]
      exact ⟨hu.dt_tick.1, hu.dt_tick.2, hu.st_tick.1, hu.st_tick.2⟩
  · obtain ⟨f, -, rfl⟩ := (running_step_end hm hrun h).fault_of_halted (running_cycleStart hm hrun).1 hhalt
    exact ⟨by rw [raise_dt, cycleStart_dt hm], by rw [raise_st, cycleStart_st hm]⟩

/-! ### REDRAW (R82, R95, R128) -/

theorem Plain.redraw_iff {i : Instr} {c u : State} (h : Plain i c u) :
    u.redraw = true ↔ c.redraw = true ∨ i = .clearScreen ∨ ∃ x y n, i = .drawSprite x y n := by
  constructor
  · intro hu
    obtain e | ⟨-, hi⟩ := h.redraw_only
    · exact .inl (e ▸ hu)
    · exact .inr hi
  · rintro (hc | hi)
    · exact h.redraw hc
    · exact h.redraw_set hi

/-- Settles O16: the acknowledgement is in the start state, and of the ends of the cycle only the one in which an
instruction ran can set REDRAW. -/
theorem redrawIsClearedByTheAcknowledgementFirst : Obligations.RedrawIsClearedByTheAcknowledgementFirst := by
  intro s s0 t p hm hhalt h
  rw [← cycleStart_redraw_iff hm]
  cases hwait : s.awaitKey with
  | some r => obtain rfl | ⟨k, rfl⟩ := wait_step_end hm hhalt hwait h <;> simp
  | none =>
    have hhalt0 := (running_cycleStart hm ⟨hhalt, hwait⟩).1
    cases running_step_end hm ⟨hhalt, hwait⟩ h with
    | fault => simp
    | unknown hw => simp [hw]
    | plain i u hw hu => simp [hw, hu.redraw_iff, hu.halt, hhalt0]

/-! ### Faults (R74, R78, R137) -/

/-- Settles O24: such a cycle ends in a fault, which is `State.raise` on the start state. -/
theorem faultsArePrecise : Obligations.FaultsArePrecise :=
  fun _ _ _ _ hm hrun h hhalt => (running_step_end hm hrun h).fault_of_halted (running_cycleStart hm hrun).1 hhalt

/-- The lowest address above 0xFFF of a fetch that reaches beyond it, as R74 has it and as `rangeFault` does. -/
theorem lowest_fetch_above {pc : Word} (h : 0xFFF ≤ pc.toNat) :
    (if 0xFFF < pc.toNat then pc else 0x1000#16) = if pc.toNat = 0xFFF then 0x1000#16 else pc := by
  by_cases hpc : pc.toNat = 0xFFF
  · rw [if_pos hpc, if_neg (by omega)]
  · rw [if_neg hpc, if_pos (by omega)]

/-- Settles O9: of the cases of a Running cycle only the fetch fault has such a PC. -/
theorem fetchAboveMemoryHalts : Obligations.FetchAboveMemoryHalts := by
  intro s s0 p hm hrun hpc
  obtain ⟨-, e⟩ | ⟨hlt, -⟩ | ⟨hlt, -⟩ := step_running_cases hm hrun
  · rw [e, lowest_fetch_above hpc]; rfl
  · omega
  · omega

/-! ### What a Running cycle runs (R73, R75) -/

/-- Settles O6: the fetch succeeds, so the cycle is the one that decodes and executes. -/
theorem stepRunsTheDecodedInstruction : Obligations.StepRunsTheDecodedInstruction := by
  intro s s0 p i hm hrun hpc hi
  obtain ⟨hge, -⟩ | ⟨-, hd, -⟩ | ⟨-, j, t, hj, ht, e⟩ := step_running_cases hm hrun
  · omega
  · rw [hi] at hd; cases hd
  · obtain rfl : i = j := by simpa [hi] using hj
    exact ⟨t, ht, e⟩

theorem frame_report (s : State) (r : Report) : Frame (fun q => q = .diag) s (s.report r) := by
  intro q hq
  cases q
  case diag => exact absurd rfl hq
  all_goals rfl

theorem frame_tick (s : State) : Frame (fun q => q = .dt ∨ q = .st) s s.tick := by
  intro q hq
  cases q
  case dt => exact absurd (.inl rfl) hq
  case st => exact absurd (.inr rfl) hq
  all_goals rfl

theorem frame_report_advance_tick (s : State) (r : Report) :
    Frame (fun q => q = .diag ∨ q = .pc ∨ q = .dt ∨ q = .st) s ((s.report r).apply .advance).tick := by
  refine Frame.trans (Frame.trans ((frame_report s r).weaken ?_) ((frame_apply _ .advance).weaken ?_))
    ((frame_tick _).weaken ?_)
  · exact fun _ hdiag => .inl hdiag
  · exact fun _ hpc => .inr (.inl hpc)
  · exact fun _ htimers => .inr (.inr htimers)

/-- Settles O8: the cycle is a report, an advance and a tick, and so are the pieces it may change. -/
theorem unknownWordIsReportedAndPassed : Obligations.UnknownWordIsReportedAndPassed := by
  intro s s0 p hm hrun hpc hw
  obtain ⟨hge, -⟩ | ⟨-, -, e⟩ | ⟨-, i, t, hi, -⟩ := step_running_cases hm hrun
  · omega
  · refine ⟨_, e, rfl, ?_, ?_, ?_, ?_⟩
    · rw [tick_pc, apply_advance_pc, report_pc, cycleStart_pc hm]
    · rw [tick_dt, countDown_toNat, apply_dt, report_dt, cycleStart_dt hm]
    · rw [tick_st, countDown_toNat, apply_st, report_st, cycleStart_st hm]
    · exact frame_report_advance_tick _ _
  · rw [hw] at hi; cases hi

/-! ### The host's move (R72, R83, R92) -/

theorem nextMove_of_nil {s : State} (h : s.hostMoves = []) :
    s.nextMove = (.cycle { keys := none, keyEvent := none, rnd := Config.freeRandomByte s.draws, redrawAck := false },
      { s with draws := s.draws + 1 }) := by
  unfold State.nextMove; rw [h]

theorem nextMove_of_cons {s : State} {m : HostMove} {rest : List HostMove} (h : s.hostMoves = m :: rest) :
    s.nextMove = (m, { s with hostMoves := rest }) := by
  unfold State.nextMove; rw [h]

/-- Settles O7: the two cases of the schedule. -/
theorem nextMoveIsTheOldestOrAQuietCycle : Obligations.NextMoveIsTheOldestOrAQuietCycle :=
  fun _ => ⟨fun _ _ => nextMove_of_cons, fun h => ⟨_, nextMove_of_nil h⟩⟩

/-- Settles O13: neither a Halted nor a Running cycle looks at the key event. -/
theorem keyEventOutsideAWaitIsLost : Obligations.KeyEventOutsideAWaitIsLost := by
  intro s p rest ev hnot
  have hm (q : CyclePorts) : ({ s with hostMoves := .cycle q :: rest } : State).nextMove =
    (.cycle q, { s with hostMoves := rest }) := nextMove_of_cons rfl
  by_cases hhalt : s.halt = true
  · rw [step_of_halted (hm _) hhalt, step_of_halted (hm _) hhalt]; rfl
  · have hrun : s.Running := ⟨Bool.eq_false_of_not_eq_true hhalt, hnot.resolve_left hhalt⟩
    rw [step_of_running (hm _) hrun, step_of_running (hm _) hrun]; rfl

/-- Settles O17, by the host's move and the state of the cycle driver. -/
theorem everyStepAnswersANextState : Obligations.EveryStepAnswersANextState := by
  intro s
  match hm : s.nextMove with
  | (.reset rom, s0) => exact ⟨_, step_of_reset hm⟩
  | (.cycle p, s0) =>
    cases hhalt : s.halt with
    | true => exact ⟨_, step_of_halted hm hhalt⟩
    | false =>
      cases hwait : s.awaitKey with
      | some r => rw [step_of_wait hm hhalt hwait]; split <;> exact ⟨_, rfl⟩
      | none =>
        obtain ⟨-, e⟩ | ⟨-, -, e⟩ | ⟨-, _, _, -, -, e⟩ := step_running_cases hm ⟨hhalt, hwait⟩ <;> exact ⟨_, e⟩

/-! ### Halted cycles and the key wait (R81, R85, R86) -/

/-- Settles O10: the cycle only latches the ports. -/
theorem haltedCycleChangesNothing : Obligations.HaltedCycleChangesNothing := by
  intro s s0 p hm hhalt
  rw [step_of_halted hm hhalt, nextMove_cycle hm]; rfl

/-- Settles O11: the idle branch of the wait. -/
theorem idleWaitChangesNothing : Obligations.IdleWaitChangesNothing := by
  intro s s0 p target hm hhalt hwait hk
  rw [step_of_wait hm hhalt hwait, hk]

theorem frame_resolve (s : State) (r : Reg) (k : BitVec 4) :
    Frame (fun q => q = .reg r ∨ q = .awaitKey ∨ q = .pc) s (s.resolve r k) := by
  intro q hq
  cases q
  case reg j => exact reg_setReg_of_ne _ fun e => hq (.inl (by rw [e]))
  case awaitKey => exact absurd (.inr (.inl rfl)) hq
  case pc => exact absurd (.inr (.inr rfl)) hq
  all_goals rfl

theorem reg_resolve_self (s : State) (r : Reg) (k : BitVec 4) : (s.resolve r k).reg r = k.setWidth 8 :=
  reg_setReg_self s r _

/-- Settles O12: the resolving branch of the wait. -/
theorem keyEventEndsTheWait : Obligations.KeyEventEndsTheWait := by
  intro s s0 p target k hm hhalt hwait hk
  have hkey : (k.setWidth 8).toNat = k.toNat := BitVec.toNat_setWidth_of_le (by decide)
  rw [step_of_wait hm hhalt hwait, hk]
  exact ⟨_, rfl, by rw [reg_resolve_self, hkey], rfl, by rw [resolve_pc, cycleStart_pc hm], frame_resolve _ target k⟩

/-! ### The PC increment (R77) -/

/-- Settles O14: the two branches of the increment; a sum in memory is not cut by the 16 bits. -/
theorem advWrapsToProgramStart : Obligations.AdvWrapsToProgramStart := by
  intro p k _
  constructor
  · intro h
    have hle : ¬ p.toNat + k > Config.memTop := Nat.not_lt.2 h
    rw [adv, if_neg hle, BitVec.toNat_ofNat, Nat.mod_eq_of_lt (by omega)]
  · exact fun h => if_pos h

end Sys2Proof.Machine

namespace Sys2Proof.Machine

/-! ### Control flow without the stack (R94, R95, R97, R99) -/

/-- Settles O32: a word of the 0 family is ClearScreen, Return or this Call, and what is left of Call is the advance. -/
theorem legacyCallOnlyAdvances : Obligations.LegacyCallOnlyAdvances := by
  constructor
  · intro n hn hE0 hEE
    rw [Laws.zeroFamilyIsDecidedByTheLowByte n hn, if_neg hE0, if_neg hEE]
  · exact fun _ s => ⟨_, rfl, rfl, frame_apply s .advance⟩

/-- Replacing the framebuffer and REDRAW leaves everything but the cells and REDRAW alone. -/
theorem frame_fb_redraw (s : State) (fb : Framebuffer) (redraw : Bool) :
    Frame (fun q => (∃ x y, q = .cell x y) ∨ q = .redraw) s { s with fb := fb, redraw := redraw } := by
  intro q hq
  cases q
  case cell x y => exact absurd (.inl ⟨x, y, rfl⟩) hq
  case redraw => exact absurd (.inr rfl) hq
  all_goals rfl

/-- Settles O33: the blank framebuffer and the set REDRAW, then the advance. -/
theorem clearScreenUnlightsEveryCell : Obligations.ClearScreenUnlightsEveryCell := by
  refine ⟨rfl, fun s => ⟨_, rfl, fun x y => ?_, rfl, rfl, ?_⟩⟩
  · exact cell_blank x y
  · refine ((frame_fb_redraw s _ _).weaken ?_).trans ((frame_apply _ .advance).weaken fun _ hpc => .inr (.inr hpc))
    exact fun _ hdrawn => hdrawn.imp_right .inl

/-- An encodable address and a register value are too small for their sum to be cut to 16 bits (D12, D33). -/
theorem indexedTarget_toNat {addr : Word} (h : addr.toNat ≤ 0xFFF) (b : Byte) :
    (indexedTarget addr b).toNat = addr.toNat + b.toNat := by
  have := b.isLt
  rw [indexedTarget, BitVec.toNat_ofNat, Nat.mod_eq_of_lt (by omega)]

/-- Settles O37: both jumps are one directive, and the indexed target is the exact sum. -/
theorem jumpsSetThePc : Obligations.JumpsSetThePc := by
  intro addr s
  constructor
  · exact ⟨_, rfl, rfl, frame_apply s _⟩
  · exact fun haddr => ⟨_, rfl, indexedTarget_toNat haddr _, frame_apply s _⟩

/-! ### The stack (R96, R98) -/

/-- The entry below SP is popped: SP comes down to it, and STACK stays (D10). -/
def State.popEntry (s : State) (k : Fin 16) : State := { s with sp := k.castSucc }

/-- The entry at SP is pushed: it takes the address, and SP goes one above it. -/
def State.pushEntry (s : State) (k : Fin 16) (a : Word) : State :=
  { s with stack := s.stack.set k.val a k.isLt, sp := k.succ }

/-- Return with a nonempty stack, `k` being its topmost entry. -/
theorem exec_ret_of_top {s : State} {k : Fin 16} (h : k.val + 1 = s.sp.val) :
    exec .ret s = .next ((s.popEntry k).apply (.jumpTo s.stack[k])) := by
  obtain ⟨k, hlt⟩ := k
  obtain rfl : k = s.sp.val - 1 := by simp only at h; omega
  rw [exec, execRet, dif_pos (by omega)]
  rfl

/-- CallSub with room on the stack, `k` being the next free entry. -/
theorem exec_callSub_of_free {s : State} {k : Fin 16} (addr : Word) (h : k.val = s.sp.val) :
    exec (.callSub addr) s = .next ((s.pushEntry k (adv s.pc 2)).apply (.jumpTo addr)) := by
  obtain ⟨k, hlt⟩ := k
  obtain rfl : k = s.sp.val := h
  rw [exec, execCallSub, dif_pos hlt]
  rfl

theorem stack_pushEntry_self (s : State) (k : Fin 16) (a : Word) : (s.pushEntry k a).stack[k] = a :=
  Vector.getElem_set_self k.isLt

theorem frame_popEntry (s : State) (k : Fin 16) : Frame (fun q => q = .sp) s (s.popEntry k) := by
  intro q hq
  cases q
  case sp => exact absurd rfl hq
  all_goals rfl

theorem frame_pushEntry (s : State) (k : Fin 16) (a : Word) :
    Frame (fun q => q = .sp ∨ q = .stackEntry k) s (s.pushEntry k a) := by
  intro q hq
  cases q
  case sp => exact absurd (.inl rfl) hq
  case stackEntry j =>
    have hne : k.val ≠ j.val := fun e => hq (.inr (by rw [Fin.ext e]))
    exact Vector.getElem_set_ne k.isLt j.isLt hne
  all_goals rfl

/-- Settles O34: the entry below SP, popped and jumped to. -/
theorem returnPopsThePc : Obligations.ReturnPopsThePc := by
  intro s hsp
  obtain ⟨k, hk⟩ : ∃ k : Fin 16, k.val + 1 = s.sp.val := ⟨⟨s.sp.val - 1, by omega⟩, by simp only; omega⟩
  refine ⟨_, exec_ret_of_top hk, hk, fun j hj => ?_, ?_⟩
  · obtain rfl : j = k := Fin.ext (by omega)
    rfl
  · exact ((frame_popEntry s k).weaken fun _ => .inl).trans ((frame_apply _ _).weaken fun _ => .inr)

/-- Settles O35: the entry at SP takes the address of the next instruction. -/
theorem callSubPushesAndJumps : Obligations.CallSubPushesAndJumps := by
  intro addr s hsp
  obtain ⟨k, hk⟩ : ∃ k : Fin 16, k.val = s.sp.val := ⟨⟨s.sp.val, hsp⟩, rfl⟩
  refine ⟨_, exec_callSub_of_free addr hk, congrArg (· + 1) hk, rfl, fun j hj => ?_, ?_⟩
  · obtain rfl : j = k := Fin.ext (by omega)
    exact stack_pushEntry_self s j _
  · refine ((frame_pushEntry s k _).weaken ?_).trans ((frame_apply _ _).weaken fun _ hpc => .inr (.inl hpc))
    exact fun _ hpushed => hpushed.imp_right fun hentry => .inr ⟨k, hk, hentry⟩

/-- Settles O36: the other branch of Return and of CallSub; a jump to PC holds it (C7). -/
theorem stackErrorsReportAndHold : Obligations.StackErrorsReportAndHold := by
  intro s
  constructor
  · intro hempty
    rw [exec, execRet, dif_neg (by omega)]
    rfl
  · intro hfull addr
    rw [exec, execCallSub, dif_neg (by omega)]
    rfl

/-- Settles O58: the Return pops the entry the CallSub pushed, which brings SP back. -/
theorem returnComesBackBehindTheCall : Obligations.ReturnComesBackBehindTheCall := by
  intro addr s hsp
  obtain ⟨k, hk⟩ : ∃ k : Fin 16, k.val = s.sp.val := ⟨⟨s.sp.val, hsp⟩, rfl⟩
  have hcall := exec_callSub_of_free addr hk
  have hret := exec_ret_of_top (s := (s.pushEntry k (adv s.pc 2)).apply (.jumpTo addr)) (k := k) rfl
  refine ⟨_, _, hcall, hret, stack_pushEntry_self s k _, fun q hq => ?_⟩
  cases q
  case sp => exact Fin.ext hk
  case pc => exact absurd (.inl rfl) hq
  case stackEntry j =>
    refine frame_pushEntry s k (adv s.pc 2) (.stackEntry j) ?_
    rintro (h | h)
    · cases h
    · exact hq (.inr ⟨k, hk, h⟩)
  all_goals rfl

end Sys2Proof.Machine

namespace Sys2Proof.Machine

/-! ### Conditional skips (R100-R105) -/

/-- An answer that is one conditional skip, over the increment `k` its condition selects: PC advances by `k` and
nothing else changes (R76). -/
theorem advances_of_skipIf {answer : Result} {s : State} {c : Bool} {k : Nat}
    (h : answer = .next (s.apply (skipIf c))) (hk : (if c then 4 else 2) = k) :
    ∃ t, answer = .next t ∧ t.pc = adv s.pc k ∧ Frame (fun q => q = .pc) s t :=
  ⟨_, h, by rw [apply_skipIf_pc, hk], frame_apply s _⟩

theorem skipWidth_beq (a b : Byte) : (if a == b then 4 else 2) = if a.toNat = b.toNat then 4 else 2 := by
  simp only [beq_iff_eq, BitVec.toNat_inj]

theorem skipWidth_not (c : Bool) : (if !c then 4 else 2) = if c then 2 else 4 := by cases c <;> rfl

theorem skipWidth_bne (a b : Byte) : (if a != b then 4 else 2) = if a.toNat = b.toNat then 2 else 4 := by
  rw [bne, skipWidth_not]
  simp only [beq_iff_eq, BitVec.toNat_inj]

/-- Settles O38: each skip is one `skipIf`, and bytes are equal when their numbers are. -/
theorem immediateSkips : Obligations.ImmediateSkips := by
  intro x imm s
  constructor
  · exact advances_of_skipIf rfl (skipWidth_beq _ _)
  · exact advances_of_skipIf rfl (skipWidth_bne _ _)

/-- Settles O39: as for an immediate, with the second register's byte in its place. -/
theorem registerSkips : Obligations.RegisterSkips := by
  intro x y s
  constructor
  · exact advances_of_skipIf rfl (skipWidth_beq _ _)
  · exact advances_of_skipIf rfl (skipWidth_bne _ _)

/-- Settles O40: a legal key makes each key skip one `skipIf` on its KEYS bit, an illegal one makes both the same raise
(D4). -/
theorem keySkipsTestTheKeyOrRaise : Obligations.KeySkipsTestTheKeyOrRaise := by
  intro x s
  constructor
  · intro hlegal
    constructor
    · exact advances_of_skipIf (keySkip_ok s x (fun down => down) hlegal) rfl
    · exact advances_of_skipIf (keySkip_ok s x (fun down => !down) hlegal) (skipWidth_not _)
  · intro hillegal
    have hinfo : ((s.reg x).setWidth 16).toNat = (s.reg x).toNat := BitVec.toNat_setWidth_of_le (by decide)
    exact ⟨.keyIndex ((s.reg x).setWidth 16), rfl, hinfo, keySkip_error s x (fun down => down) hillegal,
      keySkip_error s x (fun down => !down) hillegal⟩

end Sys2Proof.Machine

namespace Sys2Proof.Machine

/-! ### Register operations (R106-R116): a register write or a result with its flag, then the advance -/

/-- An answer that writes one register and advances: what is said of the written byte holds of the register, and
nothing else changes but PC. -/
theorem advances_of_setReg {answer : Result} {s : State} {x : Reg} {b : Byte} (P : Byte → Prop)
    (h : answer = .next ((s.setReg x b).apply .advance)) (hb : P b) :
    ∃ t, answer = .next t ∧ P (t.reg x) ∧ t.pc = adv s.pc 2 ∧ Frame (fun q => q = .reg x ∨ q = .pc) s t :=
  ⟨_, h, by rwa [reg_apply, reg_setReg_self], rfl, frame_setReg_apply s .advance x b⟩

/-- VF holds the flag that was written after the result (R17, D5). -/
theorem reg_setRegThenFlag_regF (s : State) (r : Reg) (b : Byte) (f : Bool) :
    ((s.setRegThenFlag r b f).reg regF).toNat = f.toNat := by
  rw [reg_setRegThenFlag, if_pos rfl]; cases f <;> rfl

/-- The result stays in its register when that is not VF (D5). -/
theorem reg_setRegThenFlag_self (s : State) {r : Reg} (b : Byte) (f : Bool) (h : r ≠ regF) :
    (s.setRegThenFlag r b f).reg r = b := by
  rw [reg_setRegThenFlag, if_neg h, if_pos rfl]

/-- An answer that writes a result and then a flag, and advances: what is said of the result holds of its register
unless that is VF, which holds the flag, and nothing else changes but PC. -/
theorem advances_of_setRegThenFlag {answer : Result} {s : State} {x : Reg} {b : Byte} {f : Bool} {n : Nat}
    (P : Byte → Prop) (h : answer = .next ((s.setRegThenFlag x b f).apply .advance)) (hb : P b) (hf : f.toNat = n) :
    ∃ t, answer = .next t ∧ (x ≠ 0xF#4 → P (t.reg x)) ∧ (t.reg 0xF#4).toNat = n ∧ t.pc = adv s.pc 2 ∧
      Frame (fun q => q = .reg x ∨ q = .reg 0xF#4 ∨ q = .pc) s t := by
  refine ⟨_, h, fun hx => ?_, ?_, rfl, frame_setRegThenFlag_apply s .advance x b f⟩
  · rwa [reg_apply, reg_setRegThenFlag_self s b f hx]
  · rw [reg_apply, ← hf]
    exact reg_setRegThenFlag_regF s x b f

/-! ### Results and flags as numbers, bitwise results bit by bit (R107-R116) -/

theorem addByte_toNat (a b : Byte) : (addByte a b).toNat = (a.toNat + b.toNat) % 256 := BitVec.toNat_ofNat ..

theorem subByte_toNat (a b : Byte) : ((subByte a b).toNat : Int) = ((a.toNat : Int) - b.toNat) % 256 := by
  have := b.isLt
  rw [subByte, BitVec.toNat_ofNat]
  omega

theorem shiftRightByte_toNat (b : Byte) : (shiftRightByte b).toNat = b.toNat / 2 := by
  have := b.isLt
  rw [shiftRightByte, BitVec.toNat_ofNat, Nat.mod_eq_of_lt (by omega)]

theorem shiftLeftByte_toNat (b : Byte) : (shiftLeftByte b).toNat = b.toNat * 2 % 256 := BitVec.toNat_ofNat ..

theorem carryFlag_toNat (a b : Byte) : (carryFlag a b).toNat = if 255 < a.toNat + b.toNat then 1 else 0 :=
  Bool.cond_decide ..

theorem noBorrowFlag_toNat (a b : Byte) : (noBorrowFlag a b).toNat = if b.toNat ≤ a.toNat then 1 else 0 :=
  Bool.cond_decide ..

theorem lowBitFlag_toNat (b : Byte) : (lowBitFlag b).toNat = b.toNat % 2 := by
  rw [lowBitFlag, ← BitVec.testBit_toNat, Nat.toNat_testBit, Nat.pow_zero, Nat.div_one]

theorem highBitFlag_toNat (b : Byte) : (highBitFlag b).toNat = b.toNat / 128 := by
  have := b.isLt
  rw [highBitFlag, ← BitVec.testBit_toNat, Nat.toNat_testBit]
  omega

/-- Each bit of v is the operation on that bit of a and of b (R109-R111). -/
def Bitwise (op : Bool → Bool → Bool) (a b v : Byte) : Prop :=
  ∀ k, k < 8 → v.toNat.testBit k = op (a.toNat.testBit k) (b.toNat.testBit k)

theorem bitwise_or (a b : Byte) : Bitwise or a b (a ||| b) := fun k _ => by
  rw [BitVec.toNat_or, Nat.testBit_or]

theorem bitwise_and (a b : Byte) : Bitwise and a b (a &&& b) := fun k _ => by
  rw [BitVec.toNat_and, Nat.testBit_and]

theorem bitwise_xor (a b : Byte) : Bitwise xor a b (a ^^^ b) := fun k _ => by
  rw [BitVec.toNat_xor, Nat.testBit_xor]

/-! ### The obligations -/

/-- Settles O41: the word is the instruction's encoding, which decodes to it (O1). -/
theorem loadImmediateWritesVx : Obligations.LoadImmediateWritesVx := by
  intro x imm s
  have hword : BitVec.ofNat 16 (0x6000 + 256 * x.toNat + imm.toNat) = encode (.loadImmediate x imm) := by
    apply BitVec.eq_of_toNat_eq
    simp only [encode, Laws.encodeXI_toNat, BitVec.toNat_ofNat]
    omega
  constructor
  · rw [hword]
    exact Laws.decodeOfEncodeIsTheInstruction _ rfl
  · exact advances_of_setReg (· = imm) rfl rfl

/-- Settles O42: the written byte is the sum modulo 256, and only Vx and PC are written. -/
theorem addImmediateWritesNoFlag : Obligations.AddImmediateWritesNoFlag :=
  fun _ _ _ => advances_of_setReg (·.toNat = _) rfl (addByte_toNat _ _)

/-- Settles O43: one register write each; a bit of the result is the operation on the operands' bits (D7). -/
theorem copyAndBitwiseWriteVxOnly : Obligations.CopyAndBitwiseWriteVxOnly := by
  intro x y s
  refine ⟨?copy, ?or, ?and, ?xor⟩
  case copy => exact advances_of_setReg (· = s.reg y) rfl rfl
  case or => exact advances_of_setReg (Bitwise or _ _) rfl (bitwise_or _ _)
  case and => exact advances_of_setReg (Bitwise and _ _) rfl (bitwise_and _ _)
  case xor => exact advances_of_setReg (Bitwise xor _ _) rfl (bitwise_xor _ _)

/-- Settles O44: the sum modulo 256 and the carry, written in that order (D5). -/
theorem addWithCarrySumsAndFlags : Obligations.AddWithCarrySumsAndFlags :=
  fun _ _ _ => advances_of_setRegThenFlag (·.toNat = _) rfl (addByte_toNat _ _) (carryFlag_toNat _ _)

/-- Settles O45: the two subtractions are one difference and one flag with the operands exchanged. -/
theorem subtractsDifferAndFlagNoBorrow : Obligations.SubtractsDifferAndFlagNoBorrow := by
  intro x y s
  constructor
  · exact advances_of_setRegThenFlag (fun v => (v.toNat : Int) = _) rfl (subByte_toNat _ _) (noBorrowFlag_toNat _ _)
  · exact advances_of_setRegThenFlag (fun v => (v.toNat : Int) = _) rfl (subByte_toNat _ _) (noBorrowFlag_toNat _ _)

/-- Settles O46: half with the old bit 0, double modulo 256 with the old bit 7. -/
theorem shiftsMoveOneBitIntoVf : Obligations.ShiftsMoveOneBitIntoVf := by
  intro x s
  constructor
  · exact advances_of_setRegThenFlag (·.toNat = _) rfl (shiftRightByte_toNat _) (lowBitFlag_toNat _)
  · exact advances_of_setRegThenFlag (·.toNat = _) rfl (shiftLeftByte_toNat _) (highBitFlag_toNat _)

/-- Settles O60: the addition leaves Vy alone, so the subtraction takes the same Vy off the sum modulo 256 (O44,
O45). -/
theorem subtractUndoesAdd : Obligations.SubtractUndoesAdd := by
  intro x y s hx hy hxy
  obtain ⟨t, ht, hsum, -, -, hframe⟩ := addWithCarrySumsAndFlags x y s
  obtain ⟨⟨u, hu, hdiff, -⟩, -⟩ := subtractsDifferAndFlagNoBorrow x y t
  have hkept : t.reg y = s.reg y := hframe (.reg y) (by simp [hy, hxy.symm])
  refine ⟨t, u, ht, hu, BitVec.eq_of_toNat_eq ?_⟩
  have hsum := hsum hx
  have hdiff := hdiff hx
  rw [hkept] at hdiff
  omega

end Sys2Proof.Machine

namespace Sys2Proof.Machine

/-! ### The index register (R118-R120) -/

/-- I takes the address, and nothing else changes. -/
def State.withIndex (s : State) (i : Word) : State := { s with index := i }

theorem frame_withIndex (s : State) (i : Word) : Frame (fun q => q = .index) s (s.withIndex i) := by
  intro q hq
  cases q
  case index => exact absurd rfl hq
  all_goals rfl

/-- An answer that sets I and advances: what is said of the address holds of I, and nothing else changes but PC. -/
theorem advances_of_withIndex {answer : Result} {s : State} {i : Word} (P : Word → Prop)
    (h : answer = .next ((s.withIndex i).apply .advance)) (hi : P i) :
    ∃ t, answer = .next t ∧ P t.index ∧ t.pc = adv s.pc 2 ∧ Frame (fun q => q = .index ∨ q = .pc) s t :=
  ⟨_, h, hi, rfl, ((frame_withIndex s i).weaken fun _ => .inl).trans ((frame_apply _ _).weaken fun _ => .inr)⟩

/-- No register value carries the glyph address beyond 16 bits, wherever the table stands (D19). -/
theorem glyphAddress_toNat (b : Byte) : (glyphAddress b).toNat = glyphBase + 5 * b.toNat := by
  have hvalue := b.isLt
  have hbase := glyphBase_add_le
  rw [glyphAddress, BitVec.toNat_ofNat, Nat.mod_eq_of_lt (by omega)]

theorem addIndex_toNat (i : Word) (b : Byte) : (addIndex i b).toNat = (i.toNat + b.toNat) % 65536 :=
  BitVec.toNat_ofNat ..

theorem beyondFlag_toNat (i : Word) (b : Byte) :
    (beyondFlag i b).toNat = if 0xFFF < i.toNat + b.toNat then 1 else 0 :=
  Bool.cond_decide ..

/-- VF holds the flag just written (R17). -/
theorem reg_setFlag_regF (s : State) (f : Bool) : ((s.setFlag f).reg regF).toNat = f.toNat := by
  rw [reg_setFlag, if_pos rfl]; cases f <;> rfl

/-- Settles O47: both set I and advance; the glyph address is the exact sum. -/
theorem indexTakesAddressOrGlyph : Obligations.IndexTakesAddressOrGlyph := by
  intro addr x s
  constructor
  · exact advances_of_withIndex (· = addr) rfl rfl
  · exact advances_of_withIndex (·.toNat = _) rfl (glyphAddress_toNat _)

/-- Settles O48: I takes the sum and VF the flag, both computed from the state before either is written (D6). -/
theorem addRegisterToIndexFlagsBeyondMemory : Obligations.AddRegisterToIndexFlagsBeyondMemory := by
  intro x s
  have hanswer : exec (.addRegisterToIndex x) s = .next
      (((s.withIndex (addIndex s.index (s.reg x))).setFlag (beyondFlag s.index (s.reg x))).apply .advance) := rfl
  refine ⟨_, hanswer, addIndex_toNat _ _, ?_, rfl, ?_⟩
  · rw [reg_apply, ← beyondFlag_toNat]
    exact reg_setFlag_regF _ _
  · exact ((frame_withIndex s _).weaken fun _ => .inl).trans
      ((frame_setReg_apply _ .advance regF _).weaken fun _ => .inr)

/-! ### Bytes from I on (R121, R122) -/

/-- The bytes of a list stand at I, I+1, …, and nothing else changes. -/
def State.storeBytes (s : State) (bs : List Byte) : State := { s with mem := s.mem.writeBytes s.index.toNat bs }

theorem frame_storeBytes {s : State} (hw : s.mem.wf = true) (bs : List Byte) :
    Frame (fun q => ∃ k < bs.length, q = .byte (s.index.toNat + k)) s (s.storeBytes bs) := by
  intro q hq
  cases q
  case byte a =>
    refine read_writeBytes_of_not bs s.mem _ a hw fun ⟨hlow, hhigh⟩ => hq ⟨a - s.index.toNat, by omega, ?_⟩
    rw [Nat.add_sub_cancel' hlow]
  all_goals rfl

/-- An answer that stores bytes from I on and advances: every byte is read back at its address, and nothing else
changes but PC. -/
theorem advances_of_storeBytes {answer : Result} {s : State} {bs : List Byte}
    (h : answer = .next ((s.storeBytes bs).apply .advance)) (hw : s.mem.wf = true)
    (hfit : s.index.toNat + bs.length ≤ 0x1000) :
    ∃ t, answer = .next t ∧ (∀ j (hj : j < bs.length), t.readByte (s.index.toNat + j) = bs[j]) ∧
      t.pc = adv s.pc 2 ∧ Frame (fun q => q = .pc ∨ ∃ k < bs.length, q = .byte (s.index.toNat + k)) s t := by
  refine ⟨_, h, fun j hj => ?_, rfl, ?_⟩
  · rw [readByte_apply]
    exact read_writeBytes bs s.mem _ j hw hj (by omega)
  · exact ((frame_storeBytes hw bs).weaken fun _ => .inr).trans ((frame_apply _ _).weaken fun _ => .inl)

/-- A range within memory raises nothing, so its instruction has its effect (R42). -/
theorem guarded_of_in_range {s : State} {m : Nat} (t : State) (h : s.index.toNat + m ≤ 0xFFF) :
    s.guarded (rangeFault s.index m) t = .next t := by
  rw [rangeFault_none.mpr h, guarded_none]

/-- A number no greater than a byte's value is that number as a byte. -/
theorem toNat_ofNat_of_le_toNat {b : Byte} {n : Nat} (h : n ≤ b.toNat) : (BitVec.ofNat 8 n).toNat = n := by
  rw [BitVec.toNat_ofNat, Nat.mod_eq_of_lt (Nat.lt_of_le_of_lt h b.isLt)]

/-- Settles O49: the three digits are stored from I on, and each is small enough for a byte. -/
theorem storeBcdStoresTheDigits : Obligations.StoreBcdStoresTheDigits := by
  intro x s hw hrange
  obtain ⟨t, ht, hread, hpc, hframe⟩ := advances_of_storeBytes (bs := bcdDigits (s.reg x))
    (guarded_of_in_range _ hrange) hw (Nat.succ_le_succ hrange)
  have hread : ∀ j (hj : j < 3), t.readByte (s.index.toNat + j) = (bcdDigits (s.reg x))[j]'hj := hread
  refine ⟨t, ht, ?hundreds, ?tens, ?ones, hpc, hframe⟩
  case hundreds =>
    exact (congrArg BitVec.toNat (hread 0 (by decide))).trans (toNat_ofNat_of_le_toNat (Nat.div_le_self ..))
  case tens =>
    exact (congrArg BitVec.toNat (hread 1 (by decide))).trans
      (toNat_ofNat_of_le_toNat ((Nat.mod_le ..).trans (Nat.div_le_self ..)))
  case ones =>
    exact (congrArg BitVec.toNat (hread 2 (by decide))).trans (toNat_ofNat_of_le_toNat (Nat.mod_le ..))

/-! ### Registers to memory and back (R122, R123) -/

theorem regsThrough_length (s : State) (x : Reg) : (s.regsThrough x).length = x.toNat + 1 := by
  have := x.isLt
  rw [State.regsThrough, List.length_take, Vector.length_toList, Nat.min_eq_left (by omega)]

/-- Settles O50: byte k of what is stored from I on is V[k], for every k up to x. -/
theorem dumpStoresV0ThroughVx : Obligations.DumpStoresV0ThroughVx := by
  intro x s hw hrange
  have hlen := regsThrough_length s x
  obtain ⟨t, ht, hread, hpc, hframe⟩ := advances_of_storeBytes (bs := s.regsThrough x)
    (guarded_of_in_range _ hrange) hw (by omega)
  refine ⟨t, ht, fun k hk => ?_, hpc, hframe.weaken fun q hq => hq.imp_right ?_⟩
  · obtain ⟨hin, hget⟩ := regsThrough_get s x k hk
    exact (hread k.toNat hin).trans hget
  · rintro ⟨k, hk, rfl⟩
    exact ⟨k, by omega, rfl⟩

/-- Settles O51: in range, the registers through x are the bytes from I on. -/
theorem loadReadsV0ThroughVx : Obligations.LoadReadsV0ThroughVx := by
  intro x s hrange
  refine ⟨_, guarded_of_in_range _ hrange, fun k hk => ?_, rfl, frame_loadRegsThrough_apply s .advance x _⟩
  rw [reg_apply, reg_loadRegsThrough, if_pos hk]

/-- Settles O59: the dump leaves I alone, so the load reads back the bytes the dump stored (O50, O51). -/
theorem loadAfterDumpRestoresTheRegisters : Obligations.LoadAfterDumpRestoresTheRegisters := by
  intro x s other hw hrange
  obtain ⟨t, ht, hstored, -, hframe⟩ := dumpStoresV0ThroughVx x s hw hrange
  have hindex : t.index = s.index := hframe .index (by simp)
  obtain ⟨u, hu, hloaded, -⟩ := loadReadsV0ThroughVx x { t with v := other } (by rwa [hindex])
  refine ⟨t, u, ht, hu, fun k hk => ?_⟩
  calc u.reg k = t.readByte (t.index.toNat + k.toNat) := hloaded k hk
    _ = t.readByte (s.index.toNat + k.toNat) := by rw [hindex]
    _ = s.reg k := hstored k hk

end Sys2Proof.Machine

namespace Sys2Proof.Machine

/-! ### The timer instructions (R124-R126) -/

/-- Replacing DT leaves everything else alone. -/
theorem frame_dt (s : State) (b : Byte) : Frame (fun q => q = .dt) s { s with dt := b } := by
  intro q hq
  cases q
  case dt => exact absurd rfl hq
  all_goals rfl

/-- Replacing ST leaves everything else alone. -/
theorem frame_st (s : State) (b : Byte) : Frame (fun q => q = .st) s { s with st := b } := by
  intro q hq
  cases q
  case st => exact absurd rfl hq
  all_goals rfl

/-- Advancing after an update adds PC to the pieces written. -/
theorem Frame.advance {w : Part → Prop} {s t : State} (h : Frame w s t) :
    Frame (fun q => w q ∨ q = .pc) s (t.apply .advance) :=
  (h.weaken fun _ => .inl).trans ((frame_apply t .advance).weaken fun _ => .inr)

/-- Settles O53: the read writes Vx and each set writes its timer, then all three advance. -/
theorem timerInstructionsMoveTheTimers : Obligations.TimerInstructionsMoveTheTimers := by
  intro x s
  refine ⟨?read, ?setDelay, ?setSound⟩
  case read => exact advances_of_setReg (· = s.dt) rfl rfl
  case setDelay => exact ⟨_, rfl, rfl, rfl, (frame_dt s (s.reg x)).advance⟩
  case setSound => exact ⟨_, rfl, rfl, rfl, (frame_st s (s.reg x)).advance⟩

/-! ### The key wait (R127, R84) -/

/-- Replacing AWAIT leaves everything else alone. -/
theorem frame_awaitKey (s : State) (r : Option Reg) : Frame (fun q => q = .awaitKey) s { s with awaitKey := r } := by
  intro q hq
  cases q
  case awaitKey => exact absurd rfl hq
  all_goals rfl

/-- A machine that is not halted waits exactly for the register that AWAIT names (R28). -/
theorem driverState_eq_awaitingKey_iff {s : State} (hhalt : s.halt = false) (r : Reg) :
    s.driverState = .awaitingKey r ↔ s.awaitKey = some r := by
  rw [State.driverState, hhalt, if_neg Bool.false_ne_true]
  cases s.awaitKey <;> simp

/-- WaitForKey only sets AWAIT: its jump to PC leaves PC as it is (R127). -/
theorem exec_waitForKey (x : Reg) (s : State) : exec (.waitForKey x) s = .next { s with awaitKey := some x } := rfl

/-- Settles O54: only AWAIT is written, and as HALT is clear the driver then waits for that register. -/
theorem waitForKeyCapturesItsRegister : Obligations.WaitForKeyCapturesItsRegister := by
  intro x s hhalt
  have hwaits : State.driverState { s with awaitKey := some x } = .awaitingKey x :=
    (driverState_eq_awaitingKey_iff (s := { s with awaitKey := some x }) hhalt x).mpr rfl
  exact ⟨_, exec_waitForKey x s, rfl, rfl, hwaits, frame_awaitKey s (some x)⟩

end Sys2Proof.Machine

namespace Sys2Proof.Machine

/-! ### Drawing a sprite (R128) -/

/-- The framebuffer after DrawSprite(x, y, n), and whether the draw collided. -/
def State.drawn (s : State) (x y : Reg) (n : BitVec 4) : Framebuffer × Bool :=
  drawRows (s.reg x) (s.reg y) n.toNat (fun row => s.mem.read (s.index.toNat + row)) s.fb

/-- The sprite is on the screen and REDRAW is set; VF and PC are still those before the draw. -/
def State.withDrawn (s : State) (x y : Reg) (n : BitVec 4) : State :=
  { s with fb := (s.drawn x y n).1, redraw := true }

/-- A sprite whose rows lie in memory, or that has none, is drawn; VF takes the collision, PC advances (R42, R128). -/
theorem exec_drawSprite_of_in_range (x y : Reg) {n : BitVec 4} {s : State}
    (h : n.toNat = 0 ∨ s.index.toNat + (n.toNat - 1) ≤ 0xFFF) :
    exec (.drawSprite x y n) s = .next (((s.withDrawn x y n).setFlag (s.drawn x y n).2).apply .advance) := by
  rw [exec, execDrawSprite, spriteFault_none.mpr h, guarded_none]
  rfl

section
variable {s : State} {x y : Reg} {n : BitVec 4} {cx : Fin 64} {cy : Fin 32}

/-- A sprite has fewer rows than the screen. -/
theorem height_le (n : BitVec 4) : n.toNat ≤ 32 := n.isLt.le.trans (by decide)

theorem cell_withDrawn_of_lit (h : s.SpriteLit x y n.toNat cx cy) :
    (s.withDrawn x y n).cell cx cy = !s.cell cx cy :=
  ((drawRows_spec _ _ _ (height_le n) _ _).1 cx cy).trans (if_pos ((mem_spritePixels_iff ..).mpr h))

theorem cell_withDrawn_of_not_lit (h : ¬ s.SpriteLit x y n.toNat cx cy) :
    (s.withDrawn x y n).cell cx cy = s.cell cx cy :=
  ((drawRows_spec _ _ _ (height_le n) _ _).1 cx cy).trans (if_neg (mt (mem_spritePixels_iff ..).mp h))

/-- The collision is with a cell lit before the draw. -/
theorem drawn_collides_iff :
    (s.drawn x y n).2 = true ↔ ∃ cx cy, s.SpriteLit x y n.toNat cx cy ∧ s.cell cx cy = true :=
  (drawRows_spec _ _ _ (height_le n) _ _).2.trans
    (exists₂_congr fun _ _ => and_congr_left fun _ => mem_spritePixels_iff ..)

end

/-- A draw leaves alone every cell that no 1 bit of the sprite falls on, and everything else but REDRAW. -/
theorem frame_withDrawn (s : State) (x y : Reg) (n : BitVec 4) :
    Frame (fun q => q = .redraw ∨ ∃ cx cy, s.SpriteLit x y n.toNat cx cy ∧ q = .cell cx cy) s
      (s.withDrawn x y n) := by
  intro q hq
  cases q
  case cell cx cy => exact cell_withDrawn_of_not_lit fun hlit => hq (.inr ⟨cx, cy, hlit, rfl⟩)
  case redraw => exact absurd (.inl rfl) hq
  all_goals rfl

/-- VF after a flag write (R17): one for a set flag. -/
theorem reg_setFlag_regF_eq_one_iff (s : State) (f : Bool) : (s.setFlag f).reg regF = 1#8 ↔ f = true := by
  rw [reg_setFlag, if_pos rfl]; cases f <;> decide

/-- VF after a flag write (R17): nothing but one or zero. -/
theorem reg_setFlag_regF_eq_one_or_zero (s : State) (f : Bool) :
    (s.setFlag f).reg regF = 1#8 ∨ (s.setFlag f).reg regF = 0#8 := by
  rw [reg_setFlag, if_pos rfl]; cases f <;> decide

/-- Settles O55: the pixels of a draw stand on distinct cells (R130b), so each flips its cell once and meets it as it
was before the draw. -/
theorem drawSpriteFlipsAndFlagsCollision : Obligations.DrawSpriteFlipsAndFlagsCollision := by
  intro x y n s hrange
  refine ⟨_, exec_drawSprite_of_in_range x y hrange, ?flips, ?bit, ?collision, rfl, rfl, ?frame⟩
  case flips => exact fun cx cy hlit => cell_withDrawn_of_lit hlit
  case bit =>
    rw [reg_apply]
    exact reg_setFlag_regF_eq_one_or_zero ..
  case collision =>
    rw [reg_apply, ← drawn_collides_iff]
    exact reg_setFlag_regF_eq_one_iff ..
  case frame =>
    refine ((frame_withDrawn s x y n).weaken fun q hq => ?_).trans
      ((frame_setReg_apply _ .advance regF _).weaken fun q hq => ?_)
    · exact .inr (hq.imp_right .inr)
    · exact hq.imp_right fun hpc => .inr (.inl hpc)

/-! ### Drawing the same sprite twice (R130a) -/

/-- The sprite covers the same cells in two states that agree on its registers, on I and on memory. -/
theorem spriteLit_congr {s t : State} {x y : Reg} (hx : t.reg x = s.reg x) (hy : t.reg y = s.reg y)
    (hindex : t.index = s.index) (hmem : ∀ a, t.readByte a = s.readByte a) (n : Nat) (cx : Fin 64) (cy : Fin 32) :
    t.SpriteLit x y n cx cy ↔ s.SpriteLit x y n cx cy := by
  simp only [State.SpriteLit, hx, hy, hindex, hmem]

/-- Settles O57: by O55 twice. The first draw moves neither the sprite nor its bytes, so the second flips the same
cells back and collides where the first lit a cell. -/
theorem drawingTwiceRestoresTheScreen : Obligations.DrawingTwiceRestoresTheScreen := by
  intro x y n s hx hy hrange
  obtain ⟨t, hst, hflip, -, -, -, -, hframe⟩ := drawSpriteFlipsAndFlagsCollision x y n s hrange
  have hreg : ∀ r : Reg, r ≠ 0xF#4 → t.reg r = s.reg r := fun r hr => hframe (.reg r) (by simp [hr])
  have hindex : t.index = s.index := hframe .index (by simp)
  have hlit := spriteLit_congr (hreg x hx) (hreg y hy) hindex (fun a => hframe (.byte a) (by simp)) n.toNat
  obtain ⟨u, htu, hback, -, hflag, -, -, hframe'⟩ := drawSpriteFlipsAndFlagsCollision x y n t (by rwa [hindex])
  simp only [hlit] at hback hflag hframe'
  refine ⟨t, u, hst, htu, fb_ext _ _ fun cx cy => ?restores, hflag.trans ?collision⟩
  case restores =>
    show u.cell cx cy = s.cell cx cy
    by_cases h : s.SpriteLit x y n.toNat cx cy
    · rw [hback cx cy h, hflip cx cy h, Bool.not_not]
    · have hkept : t.cell cx cy = s.cell cx cy := hframe (.cell cx cy) (by simp [h])
      exact (hframe' (.cell cx cy) (by simp [h])).trans hkept
  case collision =>
    refine exists₂_congr fun cx cy => and_congr_right fun h => ?_
    rw [hflip cx cy h, Bool.not_eq_true']

/-! ### The random byte (R129) -/

/-- Settles O56: one register write, of the bitwise conjunction of the latched random byte and the mask. -/
theorem randomMaskMasksTheRandomByte : Obligations.RandomMaskMasksTheRandomByte :=
  fun _ mask s => advances_of_setReg (Bitwise and s.rnd mask) rfl (bitwise_and _ _)

end Sys2Proof.Machine

namespace Sys2Proof.Machine

/-! ### The exceptions of an executed instruction (R132, R134, R136) -/

/-- `a` is the lowest address above memory in the range base .. base+last (R42, R134). -/
def LowestAboveMemory (base last a : Nat) : Prop :=
  0xFFF < a ∧ base ≤ a ∧ a ≤ base + last ∧ ∀ b, base ≤ b → 0xFFF < b → a ≤ b

/-- The info of MemoryBounds is that address, wherever the range reaches above memory. -/
theorem lowestAboveMemory_info {base : Word} {last : Nat} (h : 0xFFF < base.toNat + last) :
    LowestAboveMemory base.toNat last (if 0xFFF < base.toNat then base else 0x1000#16).toNat := by
  split
  case isTrue habove => exact ⟨habove, le_rfl, Nat.le_add_right .., fun _ hb _ => hb⟩
  case isFalse hin =>
    have hfirst : (0x1000#16).toNat = 0xFFF + 1 := rfl
    exact ⟨by omega, by omega, by omega, fun _ _ hb => hb⟩

/-- Settles O25: a plain effect keeps HALT, so the instruction raised, in one of the six cases of `Raises`. -/
theorem onlySixInstructionsRaise : Obligations.OnlySixInstructionsRaise := by
  intro i s t hhalt h ht
  obtain ⟨f, hraises, rfl⟩ | hplain := exec_cases i s t h
  · have hinfo (b : Byte) : (b.setWidth 16).toNat = b.toNat := BitVec.toNat_setWidth_of_le (by decide)
    rw [raise_fault]
    cases hraises
    case keyDown x hx => exact .inl ⟨x, .inl rfl, hx, rfl, hinfo _⟩
    case keyUp x hx => exact .inl ⟨x, .inr rfl, hx, rfl, hinfo _⟩
    case bcd x hr => exact .inr ⟨2, .inl ⟨x, rfl, rfl⟩, rfl, lowestAboveMemory_info hr⟩
    case dump x hr => exact .inr ⟨x.toNat, .inr (.inl ⟨x, rfl, rfl⟩), rfl, lowestAboveMemory_info hr⟩
    case load x hr => exact .inr ⟨x.toNat, .inr (.inr (.inl ⟨x, rfl, rfl⟩)), rfl, lowestAboveMemory_info hr⟩
    case draw x y n h0 hr =>
      have hlast : n.toNat - 1 + 1 = n.toNat := Nat.sub_add_cancel h0
      exact .inr ⟨n.toNat - 1, .inr (.inr (.inr ⟨x, y, n, rfl, hlast⟩)), rfl, lowestAboveMemory_info hr⟩
  · rw [hplain.halt, hhalt] at ht
    cases ht

/-- Settles O26: a fault leaves the diagnostic outputs alone, and a plain effect, which keeps HALT, changes them only by
the two stack errors. -/
theorem onlyStackErrorsAreReported : Obligations.OnlyStackErrorsAreReported := by
  intro i s t hnone h hreport
  obtain ⟨f, -, rfl⟩ | hplain := exec_cases i s t h
  · exact absurd hnone hreport
  · have hchanged : t.diag ≠ s.diag := by rwa [hnone]
    exact ⟨hplain.halt, hplain.diag.resolve_left hchanged⟩

end Sys2Proof.Machine

namespace Sys2Proof.Machine

/-! ### The load port and the reset step (R147, R151) -/

theorem loadPort_below {m : Memory} {addr : BitVec 12} (b : Byte) (h : addr.toNat < 0x200) : m.loadPort addr b = m :=
  if_pos h

theorem loadPort_from_programStart {m : Memory} {addr : BitVec 12} (b : Byte) (h : ¬ addr.toNat < 0x200) :
    m.loadPort addr b = m.write addr.toNat b :=
  if_neg h

/-- Settles O20: below 0x200 the port is ignored; from there on it is a plain write, which 12 bits keep in memory. -/
theorem loadPortWritesFromProgramStartOnly : Obligations.LoadPortWritesFromProgramStartOnly := by
  intro m addr b a hw
  by_cases hlow : addr.toNat < 0x200
  · have hout : ¬ (a = addr.toNat ∧ 0x200 ≤ a) := by omega
    rw [loadPort_below b hlow, if_neg hout]
  · have htop : addr.toNat ≤ 0xFFF := Nat.le_of_lt_succ addr.isLt
    have hin : (a = addr.toNat ∧ 0x200 ≤ a) ↔ a = addr.toNat := by omega
    rw [loadPort_from_programStart b hlow, read_write m _ a b hw htop]
    simp only [hin]

/-- Memory after a reset: the reset contents with the ROM's bytes written from 0x200 on. -/
theorem assertReset_mem (s : State) (rom : Rom) :
    (s.assertReset rom).mem = State.reset.mem.writeBytes 0x200 rom.val :=
  loadAll_romWrites rom State.reset.mem rfl

/-- A ROM ends within memory (R92). -/
theorem rom_index_le {rom : Rom} {i : Nat} (h : i < rom.val.length) : 0x200 + i ≤ 0xFFF := by
  have hfit : rom.val.length ≤ 0xE00 := rom.property
  omega

theorem readByte_assertReset (s : State) {rom : Rom} {i : Nat} (h : i < rom.val.length) :
    (s.assertReset rom).readByte (0x200 + i) = rom.val[i] := by
  rw [State.readByte, assertReset_mem]
  exact read_writeBytes rom.val _ 0x200 i rfl h (rom_index_le h)

/-- Beside the ROM's bytes, only the host's side tells the state after a reset from the reset state. -/
theorem frame_assertReset (s : State) (rom : Rom) :
    Frame (fun q => q = .hostMoves ∨ q = .draws ∨ ∃ i < rom.val.length, q = .byte (0x200 + i))
      State.reset (s.assertReset rom) := by
  intro q hq
  cases q
  case hostMoves | draws => simp at hq
  case byte a =>
    have hout : ¬ (0x200 ≤ a ∧ a < 0x200 + rom.val.length) := fun ⟨hlow, hhigh⟩ =>
      hq (.inr (.inr ⟨a - 0x200, by omega, by rw [Nat.add_sub_cancel' hlow]⟩))
    rw [Part.Same, State.readByte, assertReset_mem]
    exact read_writeBytes_of_not rom.val _ 0x200 a rfl hout
  all_goals rfl

/-- Settles O19: the reset is the listed move, whatever the state, and its load writes the ROM's bytes only. -/
theorem resetStepDiscardsAllStateAndLoadsTheRom : Obligations.ResetStepDiscardsAllStateAndLoadsTheRom := by
  intro s rest rom
  exact ⟨_, step_of_reset (nextMove_of_cons rfl), fun _ h => ⟨rom_index_le h, readByte_assertReset _ h⟩, rfl, rfl,
    frame_assertReset _ rom⟩

end Sys2Proof.Machine

namespace Sys2Proof.Laws

/-! ### Words of the spec (95_test_vectors.md) -/

/-- Settles O5: the decoder evaluated on each of the fourteen words. -/
theorem wordsOfTheSpecDecode : Obligations.WordsOfTheSpecDecode := by
  unfold Obligations.WordsOfTheSpecDecode
  decide

end Sys2Proof.Laws
